-- ==== Sys2Proof/Word.lean ====
section
/-! DEFINITION. The widths the spec counts in (00_scope.md R9): bytes, 7-bit slave addresses, the
16-bit telemetry sample and the 32-bit unique identifier. All quantities are unsigned. -/

namespace Sys2Proof

/-- `u8` of R9: one bus byte, one register of the engine, one setting. -/
abbrev Byte := BitVec 8

/-- A 7-bit slave address (R6, R83). -/
abbrev Addr7 := BitVec 7

/-- `u16` of R9: a telemetry sample (R58). -/
abbrev Sample := BitVec 16

/-- `u32` of R9: the unique identifier (R6). -/
abbrev Uid := BitVec 32

end Sys2Proof
end

