-- ==== Sys2Proof/Syntax.lean ====
section
/-! DEFINITION. The block's operations: one constructor of `Instr` for each of the 38 rows of
spec/opcode_table.json, and the names the rows are selected by (30_encoding.md R80, R84, R94, R95). -/

namespace Sys2Proof

/-- The seven status classes of R80; `other` is every status that is none of the six (R82). -/
inductive StatusClass where
  | swa | dra | spr | sra | dsa | dsn | other
  deriving DecidableEq, Repr, Inhabited

/-- What the address byte selects (R84). -/
inductive Device where
  | epower | pmic | none
  deriving DecidableEq, Repr, Inhabited

/-- The interrupt sources (R32, R214). -/
inductive Source where
  | i2c
  | button (k : Nat)
  | dispTimer
  | telemTimer
  deriving DecidableEq, Repr, Inhabited

/-- The operations of the block, one constructor per row of the opcode table, in the table's order.
An operand is the field the rule extracts: an address or data byte, a constant number `c[5:0]`,
a setting id `c[5:0]` (R86), a selector `c[6:0]` (R87), a register number, a value. -/
inductive Instr where
  -- format STATUS (40_engine_events.md)
  | stSwa (dat : Byte)
  | stDra (dat : Byte)
  | stSpr
  | stSra (dat : Byte)
  | stDsa
  | stDsn
  | stOther (code : Byte)
  -- format CMD_READ (41_register_map.md, the read side)
  | readUndef0
  | readVersion
  | readUid
  | readUndef (n : BitVec 6)
  | readSetting (id : BitVec 6)
  | readSettingUnrecognized (id : BitVec 6)
  | readTelemetry0
  | readTelemetry1
  | readTelemetry2
  | readTelemetry3
  | readTelemetry4
  | readUnmapped (sel : BitVec 7)
  | readReserved (c : Byte)
  -- format CMD_WRITE (41_register_map.md, the write side)
  | writeIgnoredLow (n : BitVec 6) (v : Byte)
  | writeSetting (id : BitVec 2) (v : Byte)
  | writeSettingL1Enabled (v : Byte)
  | writeSettingL2Enabled (v : Byte)
  | writeSettingOrientation (v : Byte)
  | writeSettingUnrecognized (id : BitVec 6) (v : Byte)
  | writeIgnoredHigh (n : BitVec 7) (v : Byte)
  -- format PT (42_passthrough.md)
  | ptWrite (reg : Byte) (v : Byte)
  | ptReadProbe
  | ptReadFirst (reg : Byte)
  | ptReadNext
  | ptLatch
  -- format IRQ (43_dispatcher.md)
  | install
  | unmask
  | irqI2c
  | irqButton (k : Nat)
  | irqDispTimer
  | irqTelemTimer
  deriving DecidableEq, Repr, Inhabited

/-- The five formats of the opcode table (R95). -/
inductive Format where
  | status | cmdRead | cmdWrite | pt | irq
  deriving DecidableEq, Repr

/-- The format the opcode table gives each row. -/
def Instr.format : Instr → Format
  | .stSwa _ | .stDra _ | .stSpr | .stSra _ | .stDsa | .stDsn | .stOther _ => .status
  | .readUndef0 | .readVersion | .readUid | .readUndef _ | .readSetting _
  | .readSettingUnrecognized _ | .readTelemetry0 | .readTelemetry1 | .readTelemetry2
  | .readTelemetry3 | .readTelemetry4 | .readUnmapped _ | .readReserved _ => .cmdRead
  | .writeIgnoredLow _ _ | .writeSetting _ _ | .writeSettingL1Enabled _
  | .writeSettingL2Enabled _ | .writeSettingOrientation _ | .writeSettingUnrecognized _ _
  | .writeIgnoredHigh _ _ => .cmdWrite
  | .ptWrite _ _ | .ptReadProbe | .ptReadFirst _ | .ptReadNext | .ptLatch => .pt
  | .install | .unmask | .irqI2c | .irqButton _ | .irqDispTimer | .irqTelemTimer => .irq

/-- What selects an operation (R95, R99): not one instruction word, but the bytes the level in
question looks at, together with what that level is. -/
inductive Selector where
  /-- A status event: the status byte and the data register (R80). -/
  | status (code dat : Byte)
  /-- An Epower read at `ST_SRA`: the command byte (R85). -/
  | cmdRead (c : Byte)
  /-- An Epower write at `ST_SPR`: the payload received, command first (R88). -/
  | cmdWrite (payload : List Byte)
  /-- A pass-through write at `ST_SPR`: the payload received, register first (R171, R174). -/
  | ptStop (payload : List Byte)
  /-- A pass-through read at `ST_SRA`: the bytes still latched, register first (R172). -/
  | ptFirst (latched : List Byte)
  /-- A pass-through read at `ST_DSA` (R173). -/
  | ptNext
  /-- The startup code installs the context (R190). -/
  | startInstall
  /-- The startup code unmasks interrupts (R191). -/
  | startUnmask
  /-- An interrupt source is dispatched (R94). -/
  | irq (src : Source)
  deriving DecidableEq, Repr

/-- The format of the table rows that a selector chooses among. -/
def Selector.format : Selector → Format
  | .status _ _ => .status
  | .cmdRead _ => .cmdRead
  | .cmdWrite _ => .cmdWrite
  | .ptStop _ | .ptFirst _ | .ptNext => .pt
  | .startInstall | .startUnmask | .irq _ => .irq

end Sys2Proof
end

