-- ==== Sys2Proof/Config.lean ====
section
/-! DEFINITION. What the spec leaves to the implementation (00_scope.md R6) and the free values
(R12): constants without a body, so that no proof sees a value of one; and the plain data types in
which the agents of R8 move and the collaborators of R56 to R60 answer. -/

namespace Sys2Proof

/-! ### The parameters of R6 -/

/-- The six status codes are pairwise distinct and otherwise unknown (R6, R81, D1): they are the
images of six fixed bytes under a permutation that nothing constrains, and every choice of six
distinct bytes is such an image. -/
opaque Config.statusCodes : Equiv.Perm Byte

/-- The parameter `ST_SWA` (R6). -/
def Config.stSwa : Byte := Config.statusCodes 0#8
/-- The parameter `ST_DRA` (R6). -/
def Config.stDra : Byte := Config.statusCodes 1#8
/-- The parameter `ST_SPR` (R6). -/
def Config.stSpr : Byte := Config.statusCodes 2#8
/-- The parameter `ST_SRA` (R6). -/
def Config.stSra : Byte := Config.statusCodes 3#8
/-- The parameter `ST_DSA` (R6). -/
def Config.stDsa : Byte := Config.statusCodes 4#8
/-- The parameter `ST_DSN` (R6). -/
def Config.stDsn : Byte := Config.statusCodes 5#8

/-- The two slave addresses differ and are otherwise unknown (R6, D2), in the same way. -/
opaque Config.slaveAddrs : Equiv.Perm Addr7

/-- The parameter `ADDR_EPOWER` (R6). -/
def Config.addrEpower : Addr7 := Config.slaveAddrs 0#7
/-- The parameter `ADDR_PMIC` (R6). -/
def Config.addrPmic : Addr7 := Config.slaveAddrs 1#7

/-- The parameter `FW_VERSION` (R6, D4). -/
opaque Config.fwVersion : Byte

/-- The parameter `DEVICE_UID` (R6, D5). -/
opaque Config.deviceUid : Uid

/-- The parameter `SETTINGS_INIT`, ids 0 to 6 (R6, D28); other ids are never asked for. -/
opaque Config.settingsInit : Nat → Byte

/-- How many buttons there are beyond the first. -/
opaque Config.moreButtons : Nat

/-- The parameter `N_BUTTON`, at least 1 (R6, D35). -/
def Config.nButton : Nat := Config.moreButtons + 1

/-! ### Answers of the collaborators -/

/-- The outcomes of `AdcSample` (R58). -/
inductive AdcAnswer where
  | sample (v : Sample)
  | hang
  deriving DecidableEq, Repr, Inhabited

/-- The outcomes of `VrmReadU8` and `VrmReadRaw` (R57). -/
inductive VrmReadAnswer where
  | ok (b : Byte)
  | err
  | hang
  deriving DecidableEq, Repr, Inhabited

/-- The outcomes of `VrmWriteU8` (R57). -/
inductive VrmWriteAnswer where
  | ok
  | err
  | hang
  deriving DecidableEq, Repr, Inhabited

/-- The display's 8-character output buffer (R39). DESIGN CHOICE (log entry 9): the spec gives eight
characters and no width of one; the model takes one 8-bit byte for each. -/
abbrev Display := Vector Byte 8

/-- What a button handler did (R194, R197): any change to the display, any change to the settings.
-/
structure ButtonEffect where
  display : Display
  writes : List (Nat × Byte)
  deriving DecidableEq, Repr, Inhabited

/-- What the telemetry timer's handler did (R196, R197): any change to the display, and it ended or
a call in it never answered. -/
inductive TelemEffect where
  | done (display : Display)
  | hang (display : Display)
  deriving DecidableEq, Repr, Inhabited

/-- One move of one agent of R8. -/
inductive Move where
  /-- The startup code takes its next step (R246). -/
  | startup
  /-- The bus presents an event (R217). -/
  | bus (status dat : Byte)
  /-- Button `k` has an edge (R218). -/
  | buttonEdge (k : Nat)
  /-- The display-refresh timer fires (R218). -/
  | dispTick
  /-- The slow telemetry timer fires (R218). -/
  | telemTick
  /-- The dispatcher serves a pending source (R219). -/
  | dispatch (src : Source)
  deriving DecidableEq, Repr, Inhabited

/-! ### Free values

Each takes the number of free values taken before it, so that no two occurrences are related. -/

/-- `draw_u8()` of R10 and R12. -/
opaque Config.drawU8 : Nat → Byte

/-- What `AdcSample ch` answers beyond the answers State lists. -/
opaque Config.freeAdc : Nat → Nat → AdcAnswer

/-- What `VrmReadU8` and `VrmReadRaw` answer beyond the answers State lists. -/
opaque Config.freeVrmRead : Nat → VrmReadAnswer

/-- What `VrmWriteU8` answers beyond the answers State lists. -/
opaque Config.freeVrmWrite : Nat → VrmWriteAnswer

/-- What the handler of button `k` does beyond the effects State lists. -/
opaque Config.freeButton : Nat → Nat → ButtonEffect

/-- What the display timer's handler does beyond the effects State lists (R195). -/
opaque Config.freeDisp : Nat → Display

/-- What the telemetry timer's handler does beyond the effects State lists. -/
opaque Config.freeTelem : Nat → TelemEffect

/-- Which agent moves beyond the moves State lists. -/
opaque Config.freeMove : Nat → Move

end Sys2Proof
end

