-- ==== Sys2Proof/WellFormed.lean ====
section
/-! DEFINITION. When an operation is one that the spec's encodings can select: the ranges of the
opcode table's rows (30_encoding.md R82, R85 to R87, R95) and the number of buttons (R194). -/

namespace Sys2Proof

/-- The six named status codes (R81). -/
def Config.namedCodes : List Byte :=
  [Config.stSwa, Config.stDra, Config.stSpr, Config.stSra, Config.stDsa, Config.stDsn]

/-- The operand ranges of the table's rows; a row whose field fills its range has no check. -/
abbrev Instr.WellFormed : Instr → Prop
  | .stOther code => code ∉ Config.namedCodes
  | .readUndef n => 3 ≤ n.toNat
  | .readSetting id => id.toNat ≤ 6
  | .readSettingUnrecognized id => 7 ≤ id.toNat
  | .readUnmapped sel => 5 ≤ sel.toNat ∧ sel.toNat ≤ 122
  | .readReserved c => 251 ≤ c.toNat
  | .writeSettingUnrecognized id _ => 7 ≤ id.toNat
  | .irqButton k => k < Config.nButton
  | .stSwa _ | .stDra _ | .stSpr | .stSra _ | .stDsa | .stDsn => True
  | .readUndef0 | .readVersion | .readUid | .readTelemetry0 | .readTelemetry1
  | .readTelemetry2 | .readTelemetry3 | .readTelemetry4 => True
  | .writeIgnoredLow _ _ | .writeSetting _ _ | .writeSettingL1Enabled _
  | .writeSettingL2Enabled _ | .writeSettingOrientation _ | .writeIgnoredHigh _ _ => True
  | .ptWrite _ _ | .ptReadProbe | .ptReadFirst _ | .ptReadNext | .ptLatch => True
  | .install | .unmask | .irqI2c | .irqDispTimer | .irqTelemTimer => True

end Sys2Proof
end

