-- ==== Sys2Proof/Decode.lean ====
section
/-! DEFINITION. The decoder, stage by stage in the order of 30_encoding.md R99 (status class,
device, command band), and after it the encoder, from the same tables (R80 to R88, R94, R95). -/

namespace Sys2Proof

/-! ### The status byte and the address byte -/

/-- `ClassOf(status)`: compared for equality as a whole, total on all 256 values (R80, R82). -/
def classOf (status : Byte) : StatusClass :=
  if status = Config.stSwa then .swa
  else if status = Config.stDra then .dra
  else if status = Config.stSpr then .spr
  else if status = Config.stSra then .sra
  else if status = Config.stDsa then .dsa
  else if status = Config.stDsn then .dsn
  else .other

/-- `dat_in[7:1]`, the slave address in an address byte (R83; DEDUCED, log entry 2). -/
def addr7 (dat : Byte) : Addr7 := dat.extractLsb' 1 7

/-- The address byte with address `a` and direction bit `rw` (R83). -/
def addrByte (a : Addr7) (rw : BitVec 1) : Byte := a ++ rw

/-- `DecodeDevice(dat_in)` of R84; the direction bit is not used. -/
def decodeDevice (dat : Byte) : Device :=
  if addr7 dat = Config.addrEpower then .epower
  else if addr7 dat = Config.addrPmic then .pmic
  else .none

/-! ### The rows of the opcode table -/

/-- Why a selector chooses no row of the table. -/
inductive DecodeError where
  /-- A control-device write whose payload is not exactly two bytes (R153): it commits nothing. -/
  | notTwoBytes
  /-- A button number that is not below `N_BUTTON` (R94, R194). -/
  | noSuchButton
  deriving DecidableEq, Repr

/-- The STATUS rows (R80, R95). -/
def decodeStatus (code dat : Byte) : Instr :=
  match classOf code with
  | .swa => .stSwa dat
  | .dra => .stDra dat
  | .spr => .stSpr
  | .sra => .stSra dat
  | .dsa => .stDsa
  | .dsn => .stDsn
  | .other => .stOther code

/-- The CMD_READ rows: disjoint ranges that cover 0..255 (R85, R95). -/
def decodeRead (c : Byte) : Instr :=
  if c = 0#8 then .readUndef0
  else if c = 1#8 then .readVersion
  else if c = 2#8 then .readUid
  else if c.toNat ≤ 63 then .readUndef (c.extractLsb' 0 6)
  else if c.toNat ≤ 70 then .readSetting (c.extractLsb' 0 6)
  else if c.toNat ≤ 127 then .readSettingUnrecognized (c.extractLsb' 0 6)
  else if c = 128#8 then .readTelemetry0
  else if c = 129#8 then .readTelemetry1
  else if c = 130#8 then .readTelemetry2
  else if c = 131#8 then .readTelemetry3
  else if c = 132#8 then .readTelemetry4
  else if c.toNat ≤ 250 then .readUnmapped (c.extractLsb' 0 7)
  else .readReserved c

/-- The CMD_WRITE rows: disjoint ranges that cover 0..255 (R85, R95). -/
def decodeWrite (c v : Byte) : Instr :=
  if c.toNat ≤ 63 then .writeIgnoredLow (c.extractLsb' 0 6) v
  else if c.toNat ≤ 67 then .writeSetting (c.extractLsb' 0 2) v
  else if c = 68#8 then .writeSettingL1Enabled v
  else if c = 69#8 then .writeSettingL2Enabled v
  else if c = 70#8 then .writeSettingOrientation v
  else if c.toNat ≤ 127 then .writeSettingUnrecognized (c.extractLsb' 0 6) v
  else .writeIgnoredHigh (c.extractLsb' 0 7) v

/-- The PT rows at `ST_SPR`: a write of exactly two bytes commits, any other latches (R171, R174).
-/
def decodePtStop : List Byte → Instr
  | [reg, v] => .ptWrite reg v
  | [] | [_] | _ :: _ :: _ :: _ => .ptLatch

/-- The PT rows at `ST_SRA`: the probe when nothing is latched, else the latched register (R172). -/
def decodePtFirst : List Byte → Instr
  | [] => .ptReadProbe
  | reg :: _ => .ptReadFirst reg

/-- The row of an interrupt source (R94). -/
def decodeSource : Source → Instr
  | .i2c => .irqI2c
  | .button k => .irqButton k
  | .dispTimer => .irqDispTimer
  | .telemTimer => .irqTelemTimer

/-- The decoder: the row that a selector chooses, or why it chooses none. -/
def decode : Selector → Except DecodeError Instr
  | .status code dat => .ok (decodeStatus code dat)
  | .cmdRead c => .ok (decodeRead c)
  | .cmdWrite [c, v] => .ok (decodeWrite c v)
  | .cmdWrite [] | .cmdWrite [_] | .cmdWrite (_ :: _ :: _ :: _) => .error .notTwoBytes
  | .ptStop payload => .ok (decodePtStop payload)
  | .ptFirst latched => .ok (decodePtFirst latched)
  | .ptNext => .ok .ptReadNext
  | .startInstall => .ok .install
  | .startUnmask => .ok .unmask
  | .irq (.button k) => if k < Config.nButton then .ok (.irqButton k) else .error .noSuchButton
  | .irq src => .ok (decodeSource src)

/-! ### The encoder -/

/-- A selector of the operation; data that the row does not look at is zero. -/
def encode : Instr → Selector
  | .stSwa dat => .status Config.stSwa dat
  | .stDra dat => .status Config.stDra dat
  | .stSpr => .status Config.stSpr 0#8
  | .stSra dat => .status Config.stSra dat
  | .stDsa => .status Config.stDsa 0#8
  | .stDsn => .status Config.stDsn 0#8
  | .stOther code => .status code 0#8
  | .readUndef0 => .cmdRead 0#8
  | .readVersion => .cmdRead 1#8
  | .readUid => .cmdRead 2#8
  | .readUndef n => .cmdRead (0b00#2 ++ n)
  | .readSetting id => .cmdRead (0b01#2 ++ id)
  | .readSettingUnrecognized id => .cmdRead (0b01#2 ++ id)
  | .readTelemetry0 => .cmdRead 0b10000000#8
  | .readTelemetry1 => .cmdRead 0b10000001#8
  | .readTelemetry2 => .cmdRead 0b10000010#8
  | .readTelemetry3 => .cmdRead 0b10000011#8
  | .readTelemetry4 => .cmdRead 0b10000100#8
  | .readUnmapped sel => .cmdRead (0b1#1 ++ sel)
  | .readReserved c => .cmdRead c
  | .writeIgnoredLow n v => .cmdWrite [0b00#2 ++ n, v]
  | .writeSetting id v => .cmdWrite [0b010000#6 ++ id, v]
  | .writeSettingL1Enabled v => .cmdWrite [0b01000100#8, v]
  | .writeSettingL2Enabled v => .cmdWrite [0b01000101#8, v]
  | .writeSettingOrientation v => .cmdWrite [0b01000110#8, v]
  | .writeSettingUnrecognized id v => .cmdWrite [0b01#2 ++ id, v]
  | .writeIgnoredHigh n v => .cmdWrite [0b1#1 ++ n, v]
  | .ptWrite reg v => .ptStop [reg, v]
  | .ptReadProbe => .ptFirst []
  | .ptReadFirst reg => .ptFirst [reg]
  | .ptReadNext => .ptNext
  | .ptLatch => .ptStop []
  | .install => .startInstall
  | .unmask => .startUnmask
  | .irqI2c => .irq .i2c
  | .irqButton k => .irq (.button k)
  | .irqDispTimer => .irq .dispTimer
  | .irqTelemTimer => .irq .telemTimer

/-! ### The host's reading of a table word -/

/-- Whether the opcode table gives the command byte a pattern of bits in a CMD_READ row. -/
def hasReadPattern (c : Byte) : Bool :=
  c.toNat ≤ 2 || (128 ≤ c.toNat && c.toNat ≤ 132)

/-- Whether the opcode table gives the command byte a pattern of bits in a CMD_WRITE row. -/
def hasWritePattern (c : Byte) : Bool :=
  c.toNat ≤ 70 || 128 ≤ c.toNat

/-- The operation of a table word. DESIGN CHOICE (log entry 10). The table gives bits to one-byte
commands only, and gives the same byte to a read and to a write, which the hardware tells apart by
the level that looks at it (R95): here the row with the most specific pattern of bits is taken (a
read's eight fixed bits, else the write's pattern, else the read's range), and a write's value byte,
above the table's bits, is 0. -/
def decodeTableWord (nbits w : Nat) : Option Instr :=
  if nbits = 8 then
    let c := BitVec.ofNat 8 w
    if !hasReadPattern c && hasWritePattern c then (decode (.cmdWrite [c, 0#8])).toOption
    else (decode (.cmdRead c)).toOption
  else none

end Sys2Proof
end

