-- ==== Sys2Proof/Machine/State.lean ====
section
/-! DEFINITION. The state of the block (10_state.md R20), the controller and collaborator state its
rules act on, and the model's own record of agents, answers and calls. All of it is plain data. -/

namespace Sys2Proof.Machine

/-- The transaction mode (R21). -/
inductive Mode where
  | idle | epowerRead | epowerWrite | passthroughRead | passthroughWrite
  deriving DecidableEq, Repr

/-- The run status (R33). -/
inductive RunStatus where
  | running | wedged | fatal
  deriving DecidableEq, Repr

/-- What the startup code does next, in the order of R246. -/
inductive Startup where
  | peripherals | install | unmask | idle
  deriving DecidableEq, Repr

/-- A primitive call of R10 that has an effect or an answer. DEDUCED (log entry 12): `DatRead` is
not recorded, since it has no side effect (R59) and the spec's output lists do not show it. -/
inductive Call where
  | settingsGet (id : Nat)
  | settingsSet (id : Nat) (v : Byte)
  | adcSample (ch : Nat)
  | vrmReadU8 (reg : Byte)
  | vrmWriteU8 (reg v : Byte)
  | vrmReadRaw
  | displayOrientation (v : Byte)
  | vrmEnableLine (rail : Nat) (v : Byte)
  | datWrite (b : Byte)
  | ctlAckEnable
  | ctlStartSet
  | ctlFlagClear
  deriving DecidableEq, Repr

/-- A byte-addressed space in canonical form: addresses strictly rising, no entry equal to what an
unlisted address reads as. -/
abbrev Memory := List Host.Cell

/-- The engine's registers (R20 to R28). A cursor's range is its type. -/
structure Engine where
  mode : Mode
  rxBuf : Vector Byte 8
  rxCursor : Fin 9
  txBuf : Vector Byte 4
  txCursor : Fin 4
  staged : Byte
  deriving DecidableEq, Repr

/-- The I2C controller's registers (R34 to R37, R246). `status` holds the code delivered last; the
handler's one read of it yields the first component of the event (R59). -/
structure Controller where
  enabled : Bool
  ackEnable : Bool
  start : Bool
  intFlag : Bool
  status : Byte
  data : Byte
  ownAddrs : List Addr7
  deriving DecidableEq, Repr

/-- The dispatcher's registers (R30 to R33). `pendingButtons` lists the pending button numbers,
strictly rising; `i2cEvent` is the pair `(status, dat_in)`. -/
structure Dispatcher where
  ctxInstalled : Bool
  irqMask : Bool
  pendingI2c : Bool
  pendingButtons : List Nat
  pendingDisp : Bool
  pendingTelem : Bool
  i2cEvent : Option (Byte × Byte)
  run : RunStatus
  deriving DecidableEq, Repr

/-- Collaborator state that the spec gives effects on: the settings (R38, R56), the display's cells
(R39), and the last byte each side channel carried, if it carried one (R60). -/
structure Devices where
  settings : Memory
  display : Display
  orientationSent : Option Byte
  enable1Sent : Option Byte
  enable2Sent : Option Byte
  deriving DecidableEq, Repr

/-- DESIGN CHOICE (log entries 4, 5, 6, 10, 12, 13). The model's own fields: the startup code's
position, the agents' coming moves, the collaborators' coming answers and effects, how many free
values were taken, the calls of the latest handler invocation in order (R11), and the byte the bus
master clocked in at the latest `ST_SRA` or `ST_DSA` (R59, R62). -/
structure Env where
  startup : Startup
  schedule : List Move
  adc : List AdcAnswer
  vrmRead : List VrmReadAnswer
  vrmWrite : List VrmWriteAnswer
  buttonFx : List ButtonEffect
  dispFx : List Display
  telemFx : List TelemEffect
  draws : Nat
  calls : List Call
  hostByte : Option Byte
  deriving DecidableEq, Repr

/-- The whole machine. -/
structure State where
  engine : Engine
  ctl : Controller
  irq : Dispatcher
  dev : Devices
  env : Env
  deriving DecidableEq, Repr

/-- Why a step stops with no further step (60_exceptions.md R210). -/
inductive Fault where
  /-- Every instruction and every step of a state whose run status is `Wedged`: a collaborator never
  answered, and no source is ever dispatched again (R33, R210, U18). Safe: the run stops. -/
  | wedged
  /-- Every instruction and every step of a state whose run status is `Fatal`: the context was
  installed twice (R190, R210, U20). Safe: the run stops. -/
  | fatalAlreadyInitialized
  deriving DecidableEq, Repr

/-- Why an operation has no meaning in a state. -/
inductive Refusal where
  /-- An instruction without a meaning in this model; raised by no arm. Safe. -/
  | notModelled (mnemonic : String)
  /-- The dispatch of a source in a state where R219 does not enable it (V73). Safe: the spec gives
  no step there. -/
  | dispatchNotEnabled
  /-- `UNMASK` where no context is installed (R191, D24, U21, V71). Safe: the spec gives no step
  there. -/
  | unmaskWithoutContext
  /-- The dispatch of the I2C source with no event behind its pending bit, which R32 rules out.
  Safe: no step leads to such a state. -/
  | noEventPresented
  deriving DecidableEq, Repr

/-- The engine as reset and `INSTALL` leave it: `Idle`, both cursors 0, and thirteen draws for the
buffers and `staged`, numbered from `n` (R41, R190; DESIGN CHOICE on the
numbers, log entry 6). -/
def freshEngine (n : Nat) : Engine where
  mode := .idle
  rxBuf := Vector.ofFn fun i => Config.drawU8 (n + i.val)
  rxCursor := 0
  txBuf := Vector.ofFn fun i => Config.drawU8 (n + 8 + i.val)
  txCursor := 0
  staged := Config.drawU8 (n + 12)

/-- The machine right after reset (R41, R240): the spec's values; where it gives none, the values of
log entries 8 and 9 (DESIGN CHOICE) and, for the model's own fields, of entries 4, 5, 6, 10, 12 and
13 (DESIGN CHOICE). -/
def State.reset : State where
  engine := freshEngine 0
  ctl :=
    { enabled := false, ackEnable := false, start := false, intFlag := false,
      status := 0#8, data := 0#8, ownAddrs := [] }
  irq :=
    { ctxInstalled := false, irqMask := true, pendingI2c := false, pendingButtons := [],
      pendingDisp := false, pendingTelem := false, i2cEvent := none, run := .running }
  dev :=
    { settings := [], display := Vector.replicate 8 0#8, orientationSent := none,
      enable1Sent := none, enable2Sent := none }
  env :=
    { startup := .peripherals, schedule := [], adc := [], vrmRead := [], vrmWrite := [],
      buttonFx := [], dispFx := [], telemFx := [], draws := 13, calls := [], hostByte := none }

end Sys2Proof.Machine
end

