-- ==== Sys2Proof/Machine/Operands.lean ====
section
/-! DEFINITION. Operand forms (30_encoding.md R83 to R91): setting ids, monitoring selectors and
their channel table, the split of a sample and of the unique identifier, and the reads of the
receive and send buffers. -/

namespace Sys2Proof.Machine

/-- The error sentinel `ERR_BYTE` (R6, R90). -/
def errByte : Byte := 0xEE#8

/-- The pass-through probe byte `PROBE_BYTE` (R6, R90). -/
def probeByte : Byte := 0xFF#8

/-- `id = c - 64`, for a command of the settings band (R86). -/
def settingId (c : Byte) : Nat := c.toNat - 64

/-- `sel = c - 128`, for a command of the monitoring band (R87). -/
def selectorOf (c : Byte) : Nat := c.toNat - 128

/-- `MON_TABLE`, selector to ADC channel; no other selector is mapped (R87). -/
def monTable : Nat → Option Nat
  | 0 => some 2
  | 1 => some 1
  | 2 => some 8
  | 3 => some 10
  | 4 => some 9
  | _ + 5 => none

/-- `sample[15:8]` (R91). -/
def sampleHi (s : Sample) : Byte := s.extractLsb' 8 8

/-- `sample[7:0]` (R91). -/
def sampleLo (s : Sample) : Byte := s.extractLsb' 0 8

/-- `DEVICE_UID[8i+7:8i]` (R91). -/
def uidByte (i : Nat) : Byte := Config.deviceUid.extractLsb' (8 * i) 8

/-- The send buffer of a unique-identifier read: `tx_buf[i] = DEVICE_UID[8i+7:8i]` (R91, R142). -/
def uidBuf : Vector Byte 4 := Vector.ofFn fun i => uidByte i.val

/-- The bytes of the receive buffer that are valid (R23), in the order received. -/
def Engine.latched (e : Engine) : List Byte := e.rxBuf.toList.take e.rxCursor.val

/-- `tx_buf[tx_cursor - 1]`: the byte the descending cursor sends next (R28, R118). -/
def Engine.nextTx (e : Engine) : Byte :=
  e.txBuf[e.txCursor.val - 1]'(by have := e.txCursor.isLt; omega)

/-- `tx_cursor - 1` (R118), used only above 0. -/
def Engine.txDown (e : Engine) : Fin 4 :=
  ⟨e.txCursor.val - 1, by have := e.txCursor.isLt; omega⟩

/-- The mode an `ST_SWA` enters (R112). -/
def writeMode : Device → Mode
  | .epower => .epowerWrite
  | .pmic => .passthroughWrite
  | .none => .idle

end Sys2Proof.Machine
end

