-- ==== Sys2Proof/Machine/Ops.lean ====
section
/-! DEFINITION. The named operations over the state: reading and writing the settings space, the
primitive calls of 00_scope.md R10 with the collaborators' answers (20_memory.md R56 to R60), free
values, the arrival of interrupts, and the entry into a handler and the return from it
(43_dispatcher.md R192, 60_exceptions.md R220, R222). -/

namespace Sys2Proof.Machine

/-! ### The settings space -/

/-- What an address that is not listed reads as: `SETTINGS_INIT[id]` for a recognized id, and 0 for
any other (R56, D28; DEDUCED, log entry 7). -/
def Memory.initial (a : Nat) : Byte := if a < 7 then Config.settingsInit a else 0#8

/-- The byte at an address. -/
def Memory.read : Memory → Nat → Byte
  | [], a => Memory.initial a
  | (b, w) :: m, a => if b = a then w else Memory.read m a

/-- Lists `v` at `a`, in address order. -/
def Memory.insert : Memory → Nat → Byte → Memory
  | [], a, v => [(a, v)]
  | (b, w) :: m, a, v =>
    if a < b then (a, v) :: (b, w) :: m
    else if a = b then (a, v) :: m
    else (b, w) :: Memory.insert m a v

/-- Lists nothing at `a`. -/
def Memory.erase (m : Memory) (a : Nat) : Memory := m.filter fun c => c.1 ≠ a

/-- Writes one byte and keeps the canonical form. -/
def Memory.write (m : Memory) (a : Nat) (v : Byte) : Memory :=
  if v = Memory.initial a then Memory.erase m a else Memory.insert m a v

/-- The canonical form: addresses strictly rising and recognized, no entry that an unlisted address
would read as. -/
abbrev Memory.wf (m : Memory) : Prop :=
  m.Pairwise (fun c d => c.1 < d.1) ∧ ∀ c ∈ m, c.1 < 7 ∧ c.2 ≠ Memory.initial c.1

/-- The store's content for an id: 0 for an id that is not recognized (R56). -/
def settingAt (m : Memory) (id : Nat) : Byte := if id < 7 then Memory.read m id else 0#8

/-- The store after a `set`: unchanged for an id that is not recognized (R56). -/
def settingPut (m : Memory) (id : Nat) (v : Byte) : Memory :=
  if id < 7 then Memory.write m id v else m

/-! ### Running, stopping, free values, the record of calls -/

/-- Goes on only if nothing has wedged or ended the run (R117: after a call that never answers, the
rest of the handler is not reached). -/
def State.andThen (s : State) (k : State → State) : State :=
  if s.irq.run = .running then k s else s

/-- The run status `Wedged` and `Fatal` have no step (R33, R210). -/
def ifRunning (s : State) (o : Host.Outcome State Fault Refusal) : Host.Outcome State Fault Refusal :=
  match s.irq.run with
  | .running => o
  | .wedged => .fault .wedged
  | .fatal => .fault .fatalAlreadyInitialized

/-- A call never answered: `run <- Wedged` (R33, R117). -/
def State.wedge (s : State) : State := { s with irq := { s.irq with run := .wedged } }

/-- `raise FatalAlreadyInitialized`: `run <- Fatal`, no handler is entered and nothing is saved
(R210). -/
def State.raiseFatal (s : State) : State := { s with irq := { s.irq with run := .fatal } }

/-- The next draw (R12). -/
def State.freeByte (s : State) : Byte := Config.drawU8 s.env.draws

/-- One more free value has been taken. -/
def State.tookDraw (s : State) : State := { s with env := { s.env with draws := s.env.draws + 1 } }

/-- Records one primitive call (R11). -/
def State.record (s : State) (c : Call) : State :=
  { s with env := { s.env with calls := s.env.calls ++ [c] } }

/-- A handler's record starts empty (R11). -/
def State.clearCalls (s : State) : State := { s with env := { s.env with calls := [] } }

/-! ### Engine registers -/

/-- `mode <- m` (R21). -/
def State.setMode (s : State) (m : Mode) : State := { s with engine := { s.engine with mode := m } }

/-- `rx_cursor <- 0` (R24: clearing is the cursor). -/
def State.clearRx (s : State) : State := { s with engine := { s.engine with rxCursor := 0 } }

/-- `tx_cursor <- 0` (R28). -/
def State.clearTx (s : State) : State := { s with engine := { s.engine with txCursor := 0 } }

/-- `staged <- b` (R27). -/
def State.setStaged (s : State) (b : Byte) : State :=
  { s with engine := { s.engine with staged := b } }

/-- Appends a received byte while there is room; a byte beyond the eighth is dropped (R25, R113). -/
def Engine.receive (e : Engine) (b : Byte) : Engine :=
  if h : e.rxCursor.val < 8 then
    { e with rxBuf := e.rxBuf.set e.rxCursor.val b, rxCursor := ⟨e.rxCursor.val + 1, by omega⟩ }
  else e

/-- The engine keeps a received byte (R113). -/
def State.receive (s : State) (b : Byte) : State := { s with engine := s.engine.receive b }

/-- Loads the send buffer with the identifier (R142). -/
def State.loadUid (s : State) : State := { s with engine := { s.engine with txBuf := uidBuf } }

/-- `tx_cursor <- c` (R28). -/
def State.setTxCursor (s : State) (c : Fin 4) : State :=
  { s with engine := { s.engine with txCursor := c } }

/-! ### Controller and collaborator primitives -/

/-- `DatWrite(b)` (R59). -/
def State.datWrite (s : State) (b : Byte) : State :=
  { s.record (.datWrite b) with ctl := { s.ctl with data := b } }

/-- `SettingsGet(id)` hands its answer on (R56). -/
def State.settingsGet (s : State) (id : Nat) (k : Byte → State → State) : State :=
  k (settingAt s.dev.settings id) (s.record (.settingsGet id))

/-- `SettingsSet(id, v)`, complete before it returns (R56, R66). -/
def State.settingsSet (s : State) (id : Nat) (v : Byte) : State :=
  { s.record (.settingsSet id v) with
    dev := { s.dev with settings := settingPut s.dev.settings id v } }

/-- `DisplayOrientation(v)` (R60). DESIGN CHOICE (log entry 9): what the display then does is outside
the block, although R39 says that this channel reaches the display's buffer; the model leaves the
buffer's cells as they are. -/
def State.sendOrientation (s : State) (v : Byte) : State :=
  { s.record (.displayOrientation v) with dev := { s.dev with orientationSent := some v } }

/-- `VrmEnableLine(1, v)` (R60). -/
def State.sendEnable1 (s : State) (v : Byte) : State :=
  { s.record (.vrmEnableLine 1 v) with dev := { s.dev with enable1Sent := some v } }

/-- `VrmEnableLine(2, v)` (R60). -/
def State.sendEnable2 (s : State) (v : Byte) : State :=
  { s.record (.vrmEnableLine 2 v) with dev := { s.dev with enable2Sent := some v } }

/-- What the ADC answers next: the next listed answer, else a free one (R58). -/
def State.adcAnswer (s : State) (ch : Nat) : AdcAnswer :=
  s.env.adc.headD (Config.freeAdc s.env.draws ch)

/-- After an `AdcSample` call was made and its answer taken. -/
def State.askedAdc (s : State) (ch : Nat) : State :=
  { s.record (.adcSample ch) with
    env := { (s.record (.adcSample ch)).env with
      adc := s.env.adc.tail, draws := s.env.draws + 1 } }

/-- `AdcSample(ch)`: hands the sample on, or never answers (R58, R117). -/
def State.adcSample (s : State) (ch : Nat) (k : Sample → State → State) : State :=
  match s.adcAnswer ch with
  | .sample v => k v (s.askedAdc ch)
  | .hang => (s.askedAdc ch).wedge

/-- What the downstream driver answers to the next read (R57). -/
def State.vrmReadAnswer (s : State) : VrmReadAnswer :=
  s.env.vrmRead.headD (Config.freeVrmRead s.env.draws)

/-- After a downstream read call `c` was made and its answer taken. -/
def State.askedVrmRead (s : State) (c : Call) : State :=
  { s.record c with
    env := { (s.record c).env with
      vrmRead := s.env.vrmRead.tail, draws := s.env.draws + 1 } }

/-- A downstream read whose byte, if it comes, is the response; an error leaves the slot without one
(R170, R211), and a call that never answers wedges the run. -/
def State.forwardRead (s : State) (c : Call) : State :=
  match s.vrmReadAnswer with
  | .ok b => (s.askedVrmRead c).datWrite b
  | .err => s.askedVrmRead c
  | .hang => (s.askedVrmRead c).wedge

/-- What the downstream driver answers to the next write (R57). -/
def State.vrmWriteAnswer (s : State) : VrmWriteAnswer :=
  s.env.vrmWrite.headD (Config.freeVrmWrite s.env.draws)

/-- After a downstream write call was made and its answer taken. -/
def State.askedVrmWrite (s : State) (reg v : Byte) : State :=
  { s.record (.vrmWriteU8 reg v) with
    env := { (s.record (.vrmWriteU8 reg v)).env with
      vrmWrite := s.env.vrmWrite.tail, draws := s.env.draws + 1 } }

/-- `VrmWriteU8(reg, v)`: success and failure look alike here (R171). -/
def State.vrmWriteU8 (s : State) (reg v : Byte) : State :=
  match s.vrmWriteAnswer with
  | .ok => s.askedVrmWrite reg v
  | .err => s.askedVrmWrite reg v
  | .hang => (s.askedVrmWrite reg v).wedge

/-! ### Interrupts: arrival, entry, return -/

/-- Adds a number to a strictly rising list. -/
def insertNat : Nat → List Nat → List Nat
  | k, [] => [k]
  | k, j :: l => if k < j then k :: j :: l else if k = j then j :: l else j :: insertNat k l

/-- Whether the source has been raised and not yet dispatched (R32). -/
def Dispatcher.isPending (d : Dispatcher) : Source → Bool
  | .i2c => d.pendingI2c
  | .button k => decide (k ∈ d.pendingButtons)
  | .dispTimer => d.pendingDisp
  | .telemTimer => d.pendingTelem

/-- `pending(src) <- true` for a source other than I2C; arrivals merge (R32, R218). -/
def Dispatcher.latch (d : Dispatcher) : Source → Dispatcher
  | .i2c => d
  | .button k => { d with pendingButtons := insertNat k d.pendingButtons }
  | .dispTimer => { d with pendingDisp := true }
  | .telemTimer => { d with pendingTelem := true }

/-- `pending(src) <- false` (R192). -/
def Dispatcher.acknowledge (d : Dispatcher) : Source → Dispatcher
  | .i2c => { d with pendingI2c := false }
  | .button k => { d with pendingButtons := d.pendingButtons.filter (· ≠ k) }
  | .dispTimer => { d with pendingDisp := false }
  | .telemTimer => { d with pendingTelem := false }

/-- R219, less the run status, which `ifRunning` looks at: the context is installed, the mask is
clear, the source is pending. -/
def Dispatcher.enables (d : Dispatcher) (src : Source) : Bool :=
  d.ctxInstalled && !d.irqMask && d.isPending src

/-- Entry into the one generic handler (R192 steps 1 and 2, R220): the mask is taken and the source
acknowledged; nothing is saved and no other state of the block changes. -/
def State.enterHandler (s : State) (src : Source) : State :=
  { s.clearCalls with irq := { s.irq.acknowledge src with irqMask := true } }

/-- Return from the handler (R192 step 5, R222): the mask is released; nothing is restored. -/
def State.leaveHandler (s : State) : State := { s with irq := { s.irq with irqMask := false } }

/-- `Dispatch(src)` with its action, as one transition (R192); the return is not reached if the
action hangs. -/
def runHandler (src : Source) (action : State → State) (s : State) :
    Host.Outcome State Fault Refusal :=
  ifRunning s <|
    if s.irq.enables src then .next ((action (s.enterHandler src)).andThen State.leaveHandler)
    else .refused .dispatchNotEnabled

/-- DEDUCED (log entry 14). The bus can present an event: the interface is set up (R246), the
interrupt flag is clear, so that the bus is not stalled (R110), and no event is outstanding (R217).
-/
def State.busFree (s : State) : Bool :=
  s.ctl.enabled && !s.ctl.intFlag && !s.irq.pendingI2c && s.irq.i2cEvent.isNone

/-- The controller presents `(status, dat)`: the pair, the pending bit, the interrupt flag, the code
in the status register, and the received byte in the data register (R32, R34, R35, R37, R217). DESIGN CHOICE (log entry 19): of
itself it changes neither START nor acknowledge-enable, here or anywhere else. -/
def State.present (s : State) (status dat : Byte) : State :=
  { s with
    ctl := { s.ctl with intFlag := true, status := status, data := dat }
    irq := { s.irq with pendingI2c := true, i2cEvent := some (status, dat) } }

/-- What peripheral initialisation must leave in the slave-side controller (R246 step 1). -/
def State.initPeripherals (s : State) : State :=
  { s with
    ctl := { s.ctl with
      enabled := true, ackEnable := true, start := false, intFlag := false,
      ownAddrs := [Config.addrEpower, Config.addrPmic] } }

end Sys2Proof.Machine
end

