-- ==== Sys2Proof/Machine/Flags.lean ====
section
/-! DEFINITION. The block's only flags are the controller's acknowledge-enable, START and interrupt
flag (10_state.md R35). No operation computes an arithmetic flag. -/

namespace Sys2Proof.Machine

/-- `CtlAckEnable()` (R59). -/
def State.ackEnable (s : State) : State :=
  { s.record .ctlAckEnable with ctl := { s.ctl with ackEnable := true } }

/-- `CtlStartSet()` (R59). The block never clears START (R34). DESIGN CHOICE (log entry 19): whether
the controller itself clears it is outside the block (R120); in the model it does not, so that START,
once set, stays set. -/
def State.startSet (s : State) : State :=
  { s.record .ctlStartSet with ctl := { s.ctl with start := true } }

/-- `CtlFlagClear()` (R59). -/
def State.flagClear (s : State) : State :=
  { s.record .ctlFlagClear with ctl := { s.ctl with intFlag := false } }

/-- `Finish()` (R111). -/
def State.finish (s : State) : State := s.ackEnable.flagClear

/-- Whether a handler has written the data register (R111: at most once). -/
def wroteByte : List Call → Bool
  | [] => false
  | .datWrite _ :: _ => true
  | _ :: cs => wroteByte cs

/-- The end of a step in a transmit state: the bus master clocks in the data register if this handler
wrote it (R59), and otherwise a byte that nothing constrains (R62). DESIGN CHOICE (log entry 13):
what the data register holds after a step that wrote no byte is outside the block (R37, R62); the
model leaves it as open as the byte clocked in, and gives both the one draw. -/
def State.hostClocksByte (s : State) : State :=
  if wroteByte s.env.calls then { s with env := { s.env with hostByte := some s.ctl.data } }
  else
    { s with
      ctl := { s.ctl with data := s.freeByte }
      env := { s.env with hostByte := some s.freeByte, draws := s.env.draws + 1 } }

/-- `Finish()` in a transmit state (R111, R62). -/
def State.finishTransmit (s : State) : State := s.finish.hostClocksByte

end Sys2Proof.Machine
end

