-- ==== Sys2Proof/Machine/Passthrough.lean ====
section
/-! DEFINITION. The pass-through bridge (42_passthrough.md R170 to R174) and the meanings of the PT
rows. -/

namespace Sys2Proof.Machine

/-- `PassthroughCommit(reg, v)` (R171). -/
def passthroughCommit (reg v : Byte) (s : State) : State := s.vrmWriteU8 reg v

/-- The probe branch of `PassthroughFirst()`: no downstream call (R172). -/
def passthroughProbe (s : State) : State := s.datWrite probeByte

/-- The register branch of `PassthroughFirst()` (R172). -/
def passthroughRegister (reg : Byte) (s : State) : State := s.forwardRead (.vrmReadU8 reg)

/-- `PassthroughFirst()` (R172): a register is selected when a byte is latched. -/
def passthroughFirst (s : State) : State :=
  if s.engine.rxCursor = 0 then passthroughProbe s
  else passthroughRegister s.engine.rxBuf[0] s

/-- `PassthroughNext()` (R173). -/
def passthroughNext (s : State) : State := s.forwardRead .vrmReadRaw

/-- PT_WRITE (R171). -/
def execPtWrite (reg v : Byte) (s : State) : Host.Outcome State Fault Refusal :=
  ifRunning s (.next (passthroughCommit reg v s))

/-- PT_READ_PROBE (R172). -/
def execPtReadProbe (s : State) : Host.Outcome State Fault Refusal :=
  ifRunning s (.next (passthroughProbe s))

/-- PT_READ_FIRST (R172). -/
def execPtReadFirst (reg : Byte) (s : State) : Host.Outcome State Fault Refusal :=
  ifRunning s (.next (passthroughRegister reg s))

/-- PT_READ_NEXT (R173). -/
def execPtReadNext (s : State) : Host.Outcome State Fault Refusal :=
  ifRunning s (.next (passthroughNext s))

/-- PT_LATCH (R174): nothing goes downstream, buffer and cursor are kept. -/
def execPtLatch (s : State) : Host.Outcome State Fault Refusal :=
  ifRunning s (.next s)

end Sys2Proof.Machine
end

