-- ==== Sys2Proof/Machine/Reads.lean ====
section
/-! DEFINITION. The read side of the virtual register multiplexer (41_register_map.md R140 to R147):
each read, the band dispatch `ResolveRead`, and the meanings of the CMD_READ rows. -/

namespace Sys2Proof.Machine

/-- `ReadVersion()` (R141). -/
def readVersion (s : State) : State := s.datWrite Config.fwVersion

/-- `ReadUid()` (R142): load the buffer, send its last byte, three bytes are left. -/
def readUid (s : State) : State := (s.loadUid.datWrite (uidByte 3)).setTxCursor 3

/-- `ReadUndefinedConst(c)` (R143): exactly one byte, a draw; the command plays no part. -/
def readUndefinedConst (s : State) : State := s.tookDraw.datWrite s.freeByte

/-- `ReadSetting(id)` (R144). -/
def readSetting (id : Nat) (s : State) : State := s.settingsGet id fun v t => t.datWrite v

/-- `ReadTelemetry(sel)` (R145) on the channel of the selector: the high byte at once, the low byte
staged. -/
def readChannel (ch : Nat) (s : State) : State :=
  s.adcSample ch fun v t => (t.datWrite (sampleHi v)).setStaged (sampleLo v)

/-- `ReadTelemetry(sel)` or, where the table maps the selector to no channel, `ReadUnmapped(sel)`,
which does nothing (R145, R146). -/
def readMonitor (sel : Nat) (s : State) : State :=
  match monTable sel with
  | some ch => readChannel ch s
  | none => s

/-- `ReadReserved(c)` (R147). -/
def readReserved (s : State) : State := s.datWrite errByte

/-- `ResolveRead(c)` (R140). -/
def resolveRead (c : Byte) (s : State) : State :=
  if c = 1#8 then readVersion s
  else if c = 2#8 then readUid s
  else if c.toNat ≤ 63 then readUndefinedConst s
  else if c.toNat ≤ 127 then readSetting (settingId c) s
  else if c.toNat ≤ 250 then readMonitor (selectorOf c) s
  else readReserved s

/-- READ_UNDEF_0 (R143). -/
def execReadUndef0 (s : State) : Host.Outcome State Fault Refusal :=
  ifRunning s (.next (readUndefinedConst s))

/-- READ_VERSION (R141). -/
def execReadVersion (s : State) : Host.Outcome State Fault Refusal :=
  ifRunning s (.next (readVersion s))

/-- READ_UID (R142). -/
def execReadUid (s : State) : Host.Outcome State Fault Refusal :=
  ifRunning s (.next (readUid s))

/-- READ_UNDEF (R143): the byte is unconstrained whatever the command. -/
def execReadUndef (_n : BitVec 6) (s : State) : Host.Outcome State Fault Refusal :=
  ifRunning s (.next (readUndefinedConst s))

/-- READ_SETTING (R144). -/
def execReadSetting (id : BitVec 6) (s : State) : Host.Outcome State Fault Refusal :=
  ifRunning s (.next (readSetting id.toNat s))

/-- READ_SETTING_UNRECOGNIZED (R144): the store answers 0. -/
def execReadSettingUnrecognized (id : BitVec 6) (s : State) : Host.Outcome State Fault Refusal :=
  ifRunning s (.next (readSetting id.toNat s))

/-- READ_TELEMETRY_0 (R145). -/
def execReadTelemetry0 (s : State) : Host.Outcome State Fault Refusal :=
  ifRunning s (.next (readMonitor 0 s))

/-- READ_TELEMETRY_1 (R145). -/
def execReadTelemetry1 (s : State) : Host.Outcome State Fault Refusal :=
  ifRunning s (.next (readMonitor 1 s))

/-- READ_TELEMETRY_2 (R145). -/
def execReadTelemetry2 (s : State) : Host.Outcome State Fault Refusal :=
  ifRunning s (.next (readMonitor 2 s))

/-- READ_TELEMETRY_3 (R145). -/
def execReadTelemetry3 (s : State) : Host.Outcome State Fault Refusal :=
  ifRunning s (.next (readMonitor 3 s))

/-- READ_TELEMETRY_4 (R145). -/
def execReadTelemetry4 (s : State) : Host.Outcome State Fault Refusal :=
  ifRunning s (.next (readMonitor 4 s))

/-- READ_UNMAPPED (R146). -/
def execReadUnmapped (sel : BitVec 7) (s : State) : Host.Outcome State Fault Refusal :=
  ifRunning s (.next (readMonitor sel.toNat s))

/-- READ_RESERVED (R147). -/
def execReadReserved (_c : Byte) (s : State) : Host.Outcome State Fault Refusal :=
  ifRunning s (.next (readReserved s))

end Sys2Proof.Machine
end

