-- ==== Sys2Proof/Machine/Writes.lean ====
section
/-! DEFINITION. The write side of the virtual register multiplexer (41_register_map.md R148 to R153):
`EpowerCommit`, and the meanings of the CMD_WRITE rows. -/

namespace Sys2Proof.Machine

/-- The side channel of a setting, carrying the raw byte (R149, R151). -/
def sideChannel (id : Nat) (v : Byte) (s : State) : State :=
  if id = 4 then s.sendEnable1 v
  else if id = 5 then s.sendEnable2 v
  else if id = 6 then s.sendOrientation v
  else s

/-- `WriteSetting(id, v)` (R149, R150): the store first, then the side channel. -/
def writeSetting (id : Nat) (v : Byte) (s : State) : State :=
  sideChannel id v (s.settingsSet id v)

/-- `EpowerCommit(c, v)` (R148); outside the settings band nothing happens (R152). -/
def epowerCommit (c v : Byte) (s : State) : State :=
  if 64 ≤ c.toNat ∧ c.toNat ≤ 127 then writeSetting (settingId c) v s else s

/-- WRITE_IGNORED_LOW (R152): accepted, no effect. -/
def execWriteIgnoredLow (_n : BitVec 6) (_v : Byte) (s : State) :
    Host.Outcome State Fault Refusal :=
  ifRunning s (.next s)

/-- WRITE_SETTING, ids 0 to 3 (R149). -/
def execWriteSetting (id : BitVec 2) (v : Byte) (s : State) : Host.Outcome State Fault Refusal :=
  ifRunning s (.next (writeSetting id.toNat v s))

/-- WRITE_SETTING_L1_ENABLED, id 4 (R149). -/
def execWriteSettingL1Enabled (v : Byte) (s : State) : Host.Outcome State Fault Refusal :=
  ifRunning s (.next (writeSetting 4 v s))

/-- WRITE_SETTING_L2_ENABLED, id 5 (R149). -/
def execWriteSettingL2Enabled (v : Byte) (s : State) : Host.Outcome State Fault Refusal :=
  ifRunning s (.next (writeSetting 5 v s))

/-- WRITE_SETTING_ORIENTATION, id 6 (R149). -/
def execWriteSettingOrientation (v : Byte) (s : State) : Host.Outcome State Fault Refusal :=
  ifRunning s (.next (writeSetting 6 v s))

/-- WRITE_SETTING_UNRECOGNIZED, ids 7 to 63 (R150): the call is made and stores nothing. -/
def execWriteSettingUnrecognized (id : BitVec 6) (v : Byte) (s : State) :
    Host.Outcome State Fault Refusal :=
  ifRunning s (.next (writeSetting id.toNat v s))

/-- WRITE_IGNORED_HIGH (R152): accepted, no effect. -/
def execWriteIgnoredHigh (_n : BitVec 7) (_v : Byte) (s : State) :
    Host.Outcome State Fault Refusal :=
  ifRunning s (.next s)

end Sys2Proof.Machine
end

