-- ==== Sys2Proof/Machine/Events.lean ====
section
/-! DEFINITION. The seven status events of the engine (40_engine_events.md R110 to R122) and the
meanings of the STATUS rows. -/

namespace Sys2Proof.Machine

/-- `ST_SWA(dat_in)` (R112). -/
def eventSwa (dat : Byte) (s : State) : State :=
  ((s.clearCalls.setMode (writeMode (decodeDevice dat))).clearRx).finish

/-- `ST_DRA(dat_in)` (R113): stored in a write mode, spurious otherwise. -/
def eventDra (dat : Byte) (s : State) : State :=
  match s.engine.mode with
  | .epowerWrite | .passthroughWrite => (s.clearCalls.receive dat).finish
  | .idle | .epowerRead | .passthroughRead => s.clearCalls.finish

/-- The mode-dependent part of `ST_SPR` (R114): a commit of exactly two bytes in a write mode, both
cursors in a read mode, nothing otherwise. -/
def stopAction (s : State) : State :=
  match s.engine.mode with
  | .passthroughWrite =>
    if s.engine.rxCursor = 2 then passthroughCommit s.engine.rxBuf[0] s.engine.rxBuf[1] s else s
  | .epowerWrite =>
    if s.engine.rxCursor = 2 then epowerCommit s.engine.rxBuf[0] s.engine.rxBuf[1] s else s
  | .epowerRead | .passthroughRead => s.clearRx.clearTx
  | .idle => s

/-- `ST_SPR` (R114). -/
def eventSpr (s : State) : State :=
  (stopAction s.clearCalls).andThen fun t => (t.setMode .idle).finish

/-- `SelectCommand()` (R116) hands on the latched command, or a draw when none is known. -/
def selectCommand (s : State) (k : Byte → State → State) : State :=
  if s.engine.rxCursor = 0 then k s.freeByte s.tookDraw else k s.engine.rxBuf[0] s

/-- `ST_SRA(dat_in)` (R115). -/
def eventSra (dat : Byte) (s : State) : State :=
  match decodeDevice dat with
  | .epower =>
    (selectCommand (s.clearCalls.setMode .epowerRead) resolveRead).andThen State.finishTransmit
  | .pmic =>
    (passthroughFirst (s.clearCalls.setMode .passthroughRead)).andThen State.finishTransmit
  | .none => (s.clearCalls.setMode .idle).finishTransmit

/-- The queued or staged byte that `ST_DSA` sends in `EpowerRead` (R118). -/
def sendQueued (s : State) : State :=
  if s.engine.txCursor = 0 then s.datWrite s.engine.staged
  else (s.setTxCursor s.engine.txDown).datWrite s.engine.nextTx

/-- `ST_DSA` (R118). -/
def eventDsa (s : State) : State :=
  match s.engine.mode with
  | .passthroughRead => (passthroughNext s.clearCalls).andThen State.finishTransmit
  | .epowerRead => (sendQueued s.clearCalls).finishTransmit
  | .idle | .epowerWrite | .passthroughWrite => (s.clearCalls.datWrite errByte).finishTransmit

/-- `ST_DSN` (R119). -/
def eventDsn (s : State) : State := s.clearCalls.clearRx.clearTx.finish

/-- `ST_OTHER` (R120): the code plays no part, and no engine register changes. DESIGN CHOICE (log entry
13): where the unhandled status is itself a transmit state, which byte the bus master clocks in is
open (U16; R62 names `ST_SRA` and `ST_DSA` only); the model does not record that byte, and keeps
`hostByte` and the data register as they were. -/
def eventOther (s : State) : State := s.clearCalls.startSet.finish

/-- `EngineStep(cls, dat_in)` (R110, R193). -/
def engineStep : StatusClass → Byte → State → State
  | .swa, dat => eventSwa dat
  | .dra, dat => eventDra dat
  | .spr, _ => eventSpr
  | .sra, dat => eventSra dat
  | .dsa, _ => eventDsa
  | .dsn, _ => eventDsn
  | .other, _ => eventOther

/-- ST_SWA (R112). -/
def execStSwa (dat : Byte) (s : State) : Host.Outcome State Fault Refusal :=
  ifRunning s (.next (eventSwa dat s))

/-- ST_DRA (R113). -/
def execStDra (dat : Byte) (s : State) : Host.Outcome State Fault Refusal :=
  ifRunning s (.next (eventDra dat s))

/-- ST_SPR (R114). -/
def execStSpr (s : State) : Host.Outcome State Fault Refusal :=
  ifRunning s (.next (eventSpr s))

/-- ST_SRA (R115). -/
def execStSra (dat : Byte) (s : State) : Host.Outcome State Fault Refusal :=
  ifRunning s (.next (eventSra dat s))

/-- ST_DSA (R118). -/
def execStDsa (s : State) : Host.Outcome State Fault Refusal :=
  ifRunning s (.next (eventDsa s))

/-- ST_DSN (R119). -/
def execStDsn (s : State) : Host.Outcome State Fault Refusal :=
  ifRunning s (.next (eventDsn s))

/-- ST_OTHER (R120). -/
def execStOther (_code : Byte) (s : State) : Host.Outcome State Fault Refusal :=
  ifRunning s (.next (eventOther s))

end Sys2Proof.Machine
end

