-- ==== Sys2Proof/Machine/Irq.lean ====
section
/-! DEFINITION. The dispatcher's operations (43_dispatcher.md R190 to R197) and the meanings of the
IRQ rows. -/

namespace Sys2Proof.Machine

/-- `INSTALL` (R190): creates the context with a fresh engine, or ends the run if one exists. -/
def installContext (s : State) : State :=
  if s.irq.ctxInstalled then s.raiseFatal
  else
    { s with
      engine := freshEngine s.env.draws
      irq := { s.irq with ctxInstalled := true }
      env := { s.env with draws := s.env.draws + 13 } }

/-- `irq_mask <- false` at the end of startup (R191). -/
def State.unmaskInterrupts (s : State) : State := { s with irq := { s.irq with irqMask := false } }

/-- `Action(I2C)` on the event presented (R193). -/
def i2cAction (status dat : Byte) (s : State) : State :=
  (engineStep (classOf status) dat s).andThen fun t =>
    { t with irq := { t.irq with i2cEvent := none } }

/-- What button `k`'s handler does next: the next listed effect, else a free one (R194, R197). -/
def State.buttonEffect (s : State) (k : Nat) : ButtonEffect :=
  s.env.buttonFx.headD (Config.freeButton s.env.draws k)

/-- The settings after a list of stores, one after the other; ids above 6 store nothing (R56). -/
def settingsAfter (m : Memory) : List (Nat × Byte) → Memory
  | [] => m
  | (id, v) :: ws => settingsAfter (settingPut m id v) ws

/-- `Action(BUTTON(k))` (R194, R197): the display and the settings may change, nothing else. -/
def buttonAction (k : Nat) (s : State) : State :=
  { s with
    dev := { s.dev with
      display := (s.buttonEffect k).display
      settings := settingsAfter s.dev.settings (s.buttonEffect k).writes }
    env := { s.env with buttonFx := s.env.buttonFx.tail, draws := s.env.draws + 1 } }

/-- What the display timer's handler shows next (R195). -/
def State.dispEffect (s : State) : Display := s.env.dispFx.headD (Config.freeDisp s.env.draws)

/-- `Action(DISP_TIMER)` (R195, R197): the display may change, nothing else. -/
def dispAction (s : State) : State :=
  { s with
    dev := { s.dev with display := s.dispEffect }
    env := { s.env with dispFx := s.env.dispFx.tail, draws := s.env.draws + 1 } }

/-- What the telemetry timer's handler does next (R196). -/
def State.telemEffect (s : State) : TelemEffect := s.env.telemFx.headD (Config.freeTelem s.env.draws)

/-- After the telemetry timer's handler took its effect. -/
def State.askedTelem (s : State) : State :=
  { s with env := { s.env with telemFx := s.env.telemFx.tail, draws := s.env.draws + 1 } }

/-- `Action(TELEM_TIMER)` (R196, R197): the display may change, or a call in it never answers. The
downstream side may change too, which shows in the answers listed for later calls. -/
def telemAction (s : State) : State :=
  match s.telemEffect with
  | .done d => { s.askedTelem with dev := { s.dev with display := d } }
  | .hang d => { s.askedTelem with dev := { s.dev with display := d } }.wedge

/-- INSTALL (R190). -/
def execInstall (s : State) : Host.Outcome State Fault Refusal :=
  ifRunning s (.next (installContext s))

/-- UNMASK (R191); it has no step where no context is installed (D24). -/
def execUnmask (s : State) : Host.Outcome State Fault Refusal :=
  ifRunning s <|
    if s.irq.ctxInstalled then .next s.unmaskInterrupts else .refused .unmaskWithoutContext

/-- IRQ_I2C (R192, R193). -/
def execIrqI2c (s : State) : Host.Outcome State Fault Refusal :=
  match s.irq.i2cEvent with
  | some (status, dat) => runHandler .i2c (i2cAction status dat) s
  | none =>
    ifRunning s <|
      if s.irq.enables .i2c then .refused .noEventPresented else .refused .dispatchNotEnabled

/-- IRQ_BUTTON (R192, R194). -/
def execIrqButton (k : Nat) (s : State) : Host.Outcome State Fault Refusal :=
  runHandler (.button k) (buttonAction k) s

/-- IRQ_DISP_TIMER (R192, R195). -/
def execIrqDispTimer (s : State) : Host.Outcome State Fault Refusal :=
  runHandler .dispTimer dispAction s

/-- IRQ_TELEM_TIMER (R192, R196). -/
def execIrqTelemTimer (s : State) : Host.Outcome State Fault Refusal :=
  runHandler .telemTimer telemAction s

end Sys2Proof.Machine
end

