-- ==== Sys2Proof/Machine/Dispatch.lean ====
section
/-! DEFINITION. The meaning of every operation: one arm per constructor of `Instr`, in the opcode
table's order. -/

namespace Sys2Proof.Machine

def exec (i : Instr) (s : State) : Host.Outcome State Fault Refusal :=
  match i with
  -- STATUS
  | .stSwa dat => Sys2Proof.Machine.execStSwa dat s
  | .stDra dat => Sys2Proof.Machine.execStDra dat s
  | .stSpr => Sys2Proof.Machine.execStSpr s
  | .stSra dat => Sys2Proof.Machine.execStSra dat s
  | .stDsa => Sys2Proof.Machine.execStDsa s
  | .stDsn => Sys2Proof.Machine.execStDsn s
  | .stOther code => Sys2Proof.Machine.execStOther code s
  -- CMD_READ
  | .readUndef0 => Sys2Proof.Machine.execReadUndef0 s
  | .readVersion => Sys2Proof.Machine.execReadVersion s
  | .readUid => Sys2Proof.Machine.execReadUid s
  | .readUndef n => Sys2Proof.Machine.execReadUndef n s
  | .readSetting id => Sys2Proof.Machine.execReadSetting id s
  | .readSettingUnrecognized id => Sys2Proof.Machine.execReadSettingUnrecognized id s
  | .readTelemetry0 => Sys2Proof.Machine.execReadTelemetry0 s
  | .readTelemetry1 => Sys2Proof.Machine.execReadTelemetry1 s
  | .readTelemetry2 => Sys2Proof.Machine.execReadTelemetry2 s
  | .readTelemetry3 => Sys2Proof.Machine.execReadTelemetry3 s
  | .readTelemetry4 => Sys2Proof.Machine.execReadTelemetry4 s
  | .readUnmapped sel => Sys2Proof.Machine.execReadUnmapped sel s
  | .readReserved c => Sys2Proof.Machine.execReadReserved c s
  -- CMD_WRITE
  | .writeIgnoredLow n v => Sys2Proof.Machine.execWriteIgnoredLow n v s
  | .writeSetting id v => Sys2Proof.Machine.execWriteSetting id v s
  | .writeSettingL1Enabled v => Sys2Proof.Machine.execWriteSettingL1Enabled v s
  | .writeSettingL2Enabled v => Sys2Proof.Machine.execWriteSettingL2Enabled v s
  | .writeSettingOrientation v => Sys2Proof.Machine.execWriteSettingOrientation v s
  | .writeSettingUnrecognized id v => Sys2Proof.Machine.execWriteSettingUnrecognized id v s
  | .writeIgnoredHigh n v => Sys2Proof.Machine.execWriteIgnoredHigh n v s
  -- PT
  | .ptWrite reg v => Sys2Proof.Machine.execPtWrite reg v s
  | .ptReadProbe => Sys2Proof.Machine.execPtReadProbe s
  | .ptReadFirst reg => Sys2Proof.Machine.execPtReadFirst reg s
  | .ptReadNext => Sys2Proof.Machine.execPtReadNext s
  | .ptLatch => Sys2Proof.Machine.execPtLatch s
  -- IRQ
  | .install => Sys2Proof.Machine.execInstall s
  | .unmask => Sys2Proof.Machine.execUnmask s
  | .irqI2c => Sys2Proof.Machine.execIrqI2c s
  | .irqButton k => Sys2Proof.Machine.execIrqButton k s
  | .irqDispTimer => Sys2Proof.Machine.execIrqDispTimer s
  | .irqTelemTimer => Sys2Proof.Machine.execIrqTelemTimer s

end Sys2Proof.Machine
end

