-- ==== Sys2Proof/Machine/Agents.lean ====
section
/-! DEFINITION. The agents of 00_scope.md R8 around the operations: which agent moves next, what its
move does (60_exceptions.md R217 to R219, 70_reset_and_hazards.md R246), and how an instruction is
placed so that the next step runs it. -/

namespace Sys2Proof.Machine

/-- DESIGN CHOICE (log entry 4). The next move: the first one listed; else the startup code's, until
it is done; else a free one (R8, R219: any pending source may be dispatched, any agent may move). -/
def State.nextMove (s : State) : Move :=
  match s.env.schedule with
  | m :: _ => m
  | [] =>
    match s.env.startup with
    | .peripherals | .install | .unmask => .startup
    | .idle => Config.freeMove s.env.draws

/-- The move has been taken from the schedule, or a free value has been taken for it. -/
def State.tookMove (s : State) : State :=
  match s.env.schedule with
  | _ :: ms => { s with env := { s.env with schedule := ms } }
  | [] => s.tookDraw

/-- The startup code goes on to its next position. -/
def State.setStartup (s : State) (p : Startup) : State :=
  { s with env := { s.env with startup := p } }

/-- The startup code's next step, in the order of R246; after it the CPU only idles. -/
def startupMove (s : State) : Host.Outcome State Fault Refusal :=
  match s.env.startup with
  | .peripherals => .next (s.initPeripherals.setStartup .install)
  | .install => exec .install (s.setStartup .unmask)
  | .unmask => exec .unmask (s.setStartup .idle)
  | .idle => .next s

/-- `pending(src) <- true` (R218). -/
def State.latch (s : State) (src : Source) : State := { s with irq := s.irq.latch src }

/-- One agent's move. DESIGN CHOICE (log entry 11): a move that the rules do not enable changes
nothing: the bus stays stalled (R217), a button that does not exist does not fire (R194), the CPU
idles (R219, R222). -/
def runMove (m : Move) (s : State) : Host.Outcome State Fault Refusal :=
  match m with
  | .startup => startupMove s
  | .bus status dat => .next (if s.busFree then s.present status dat else s)
  | .buttonEdge k => .next (if k < Config.nButton then s.latch (.button k) else s)
  | .dispTick => .next (s.latch .dispTimer)
  | .telemTick => .next (s.latch .telemTimer)
  | .dispatch src => if s.irq.enables src then exec (decodeSource src) s else .next s

/-! ### Placing an instruction -/

/-- The startup code is done, the context exists, interrupts are unmasked, and the given move comes
next. -/
def State.booted (s : State) (m : Move) : State :=
  { s.initPeripherals with
    irq := { s.irq with ctxInstalled := true, irqMask := false }
    env := { s.env with startup := .idle, schedule := m :: s.env.schedule } }

/-- The bus has presented an event, and its dispatch comes next. -/
def State.withEvent (s : State) (status dat : Byte) : State :=
  (s.booted (.dispatch .i2c)).present status dat

/-- The startup code comes next, at the given position. -/
def State.withStartup (s : State) (installed : Bool) (p : Startup) : State :=
  { s with
    irq := { s.irq with ctxInstalled := installed }
    env := { s.env with startup := p, schedule := .startup :: s.env.schedule } }

/-- The engine in a mode with a payload of up to two bytes received. -/
def State.withReceived (s : State) (m : Mode) (n : Fin 9) (b0 b1 : Byte) : State :=
  { s with
    engine := { s.engine with
      mode := m, rxCursor := n, rxBuf := (s.engine.rxBuf.set 0 b0).set 1 b1 } }

/-- An Epower read of the command, latched, comes next (R115). -/
def State.withRead (s : State) (c : Byte) : State :=
  (s.withReceived s.engine.mode 1 c s.engine.rxBuf[1]).withEvent Config.stSra
    (addrByte Config.addrEpower 1#1)

/-- The end of an Epower write of the payload comes next (R114). -/
def State.withWrite (s : State) (c v : Byte) : State :=
  (s.withReceived .epowerWrite 2 c v).withEvent Config.stSpr 0#8

/-- The state in which the very next step runs the row that a selector chooses. -/
def State.placed (s : State) : Selector → State
  | .status code dat => s.withEvent code dat
  | .cmdRead c => s.withRead c
  | .cmdWrite [c, v] => s.withWrite c v
  | .cmdWrite _ => s
  | .ptStop [reg, v] => (s.withReceived .passthroughWrite 2 reg v).withEvent Config.stSpr 0#8
  | .ptStop _ =>
    (s.withReceived .passthroughWrite 0 s.engine.rxBuf[0] s.engine.rxBuf[1]).withEvent
      Config.stSpr 0#8
  | .ptFirst [] =>
    (s.withReceived s.engine.mode 0 s.engine.rxBuf[0] s.engine.rxBuf[1]).withEvent Config.stSra
      (addrByte Config.addrPmic 1#1)
  | .ptFirst (reg :: _) =>
    (s.withReceived s.engine.mode 1 reg s.engine.rxBuf[1]).withEvent Config.stSra
      (addrByte Config.addrPmic 1#1)
  | .ptNext =>
    (s.withReceived .passthroughRead s.engine.rxCursor s.engine.rxBuf[0]
      s.engine.rxBuf[1]).withEvent Config.stDsa 0#8
  | .startInstall => s.withStartup false .install
  | .startUnmask => s.withStartup true .unmask
  | .irq .i2c => s.withEvent Config.stDsn 0#8
  | .irq src => (s.booted (.dispatch src)).latch src

end Sys2Proof.Machine
end

