-- ==== Sys2Proof/Machine/Step.lean ====
section
/-! DEFINITION. One step of the machine: one move of one agent (00_scope.md R8), where a dispatch is
one whole handler invocation (60_exceptions.md R219). -/

namespace Sys2Proof.Machine

/-- One step. A run that is `Wedged` or `Fatal` has none (R33, R210). -/
def step (s : State) : Host.Outcome State Fault Refusal :=
  ifRunning s (runMove s.nextMove s.tookMove)

/-- The state in which the very next step runs the operation of a table word (log entry 10): the
startup is done, the word is latched in the receive buffer as the level that looks at it finds it,
and the event that makes the engine look is presented and scheduled for dispatch. -/
def State.withFetchWord (s : State) (nbits w : Nat) : State :=
  match decodeTableWord nbits w with
  | some i => s.placed (encode i)
  | none => s

end Sys2Proof.Machine
end

