-- ==== Sys2Proof/Safety.lean ====
section
/-! DEFINITION. What claims are about: the launch premises of 70_reset_and_hazards.md R262, bus
transactions and their events (30_encoding.md R96 to R98), the complete run of R261, and the
invariant of the whole machine (10_state.md R29 to R33). -/

namespace Sys2Proof.Machine

/-- `Booted` (R262). -/
abbrev State.Booted (s : State) : Prop :=
  s.irq.ctxInstalled = true ∧ s.irq.irqMask = false ∧ s.irq.run = .running

/-- `EngineQuiet` (R262). -/
abbrev State.EngineQuiet (s : State) : Prop :=
  s.engine.mode = .idle ∧ s.engine.rxCursor = 0 ∧ s.engine.txCursor = 0

/-- `NothingPending` (R262). -/
abbrev State.NothingPending (s : State) : Prop :=
  s.irq.pendingI2c = false ∧ s.irq.pendingButtons = [] ∧ s.irq.pendingDisp = false ∧
    s.irq.pendingTelem = false

/-- `CollaboratorsAnswer`, "no call hangs" (R262), for a run of `n` steps. One step takes at most one
answer of each collaborator, so the first `n` listed of each are all that the run can take: they are
listed, and none of them is a hang. A claim about every run takes it for every `n`. -/
abbrev State.CollaboratorsAnswer (n : Nat) (s : State) : Prop :=
  (n ≤ s.env.adc.length ∧ .hang ∉ s.env.adc.take n) ∧
    (n ≤ s.env.vrmRead.length ∧ .hang ∉ s.env.vrmRead.take n) ∧
    (n ≤ s.env.vrmWrite.length ∧ .hang ∉ s.env.vrmWrite.take n) ∧
    (n ≤ s.env.telemFx.length ∧ ∀ d, .hang d ∉ s.env.telemFx.take n)

/-- The two devices that a transaction may be addressed to (R83, R98). -/
inductive Target where
  | epower | pmic
  deriving DecidableEq, Repr

/-- The address of a device (R83). -/
def Target.addr : Target → Addr7
  | .epower => Config.addrEpower
  | .pmic => Config.addrPmic

/-- A segment of a bus transaction (R96): a write of bytes, or a read that the bus master
acknowledges `acks` times before its last byte. Whether a STOP or repeated START after a read segment
is an event is left open (R98, U24, N10); each read says it for itself. -/
inductive Segment where
  | write (dev : Target) (bytes : List Byte)
  | read (dev : Target) (acks : Nat) (stopSeen : Bool)
  deriving DecidableEq, Repr

/-- The events that the engine sees of a segment (R98). -/
def Segment.events : Segment → List Instr
  | .write dev bytes => .stSwa (addrByte dev.addr 0#1) :: bytes.map .stDra ++ [.stSpr]
  | .read dev acks stopSeen =>
    .stSra (addrByte dev.addr 1#1) :: List.replicate acks .stDsa ++ [.stDsn] ++
      if stopSeen then [.stSpr] else []

/-- The idiom `READ c, acks + 1` (R97), with the event of its final STOP or without it (R98). -/
def readIdiom (c : Byte) (acks : Nat) (stopSeen : Bool) : List Segment :=
  [.write .epower [c], .read .epower acks stopSeen]

/-- The idiom `WRITE c, v` (R97). -/
def writeIdiom (c v : Byte) : List Segment := [.write .epower [c, v]]

/-- The events of a list of moves, in order. -/
def busEvents : List Move → List Instr
  | [] => []
  | .bus status dat :: ms => decodeStatus status dat :: busEvents ms
  | .startup :: ms | .buttonEdge _ :: ms | .dispTick :: ms | .telemTick :: ms | .dispatch _ :: ms =>
    busEvents ms

/-- The event that the next step presents, if the bus moves, listed or free, and is not stalled (R217).
-/
def State.presents (s : State) : Option Instr :=
  match s.nextMove with
  | .bus status dat => if s.busFree then some (decodeStatus status dat) else none
  | .startup | .buttonEdge _ | .dispTick | .telemTick | .dispatch _ => none

/-- The events that the bus presents in the next `n` steps, in order; it stops where a step stops. -/
def eventsPresented : Nat → State → List Instr
  | 0, _ => []
  | n + 1, s =>
    match step s with
    | .next t => s.presents.toList ++ eventsPresented n t
    | .fault _ | .refused _ => []

/-- The event that is outstanding, if there is one (R32). -/
def State.outstanding (s : State) : Option Instr :=
  s.irq.i2cEvent.map fun e => decodeStatus e.1 e.2

/-- `WellFormedTraffic` (R262), for a run of `n` steps from a state between two transactions: the
events that the engine is given, the one outstanding and those presented in the run by listed and by
free moves alike, begin a sequence of segments (R98). A move of a stalled bus presents nothing and
plays no part. A claim about every run takes it for every `n`. -/
def State.WellFormedTraffic (n : Nat) (s : State) : Prop :=
  ∃ segs : List Segment,
    s.outstanding.toList ++ eventsPresented n s <+: segs.flatMap Segment.events

/-- A run is complete (R261) at `s`, for `n` steps to come: running, unmasked, no event pending, and
the bus has no further event to present: it has no listed move, and no move of those steps, listed or
free, presents one. A claim that none is ever presented takes it for every `n`. -/
abbrev State.Complete (n : Nat) (s : State) : Prop :=
  s.irq.run = .running ∧ s.irq.irqMask = false ∧ s.irq.pendingI2c = false ∧
    busEvents s.env.schedule = [] ∧ eventsPresented n s = []

/-- The events of segments, one after the other; it stops where one stops. -/
def afterEvents : List Instr → State → Host.Outcome State Fault Refusal
  | [], s => .next s
  | i :: is, s =>
    match exec i s with
    | .next t => afterEvents is t
    | .fault f => .fault f
    | .refused r => .refused r

/-- R29: while bytes of the send buffer are left to send, the buffer holds the identifier. -/
abbrev Engine.UidQueued (e : Engine) : Prop := e.txCursor ≠ 0 → e.txBuf = uidBuf

/-- The controller and the event behind the pending bit (R32, R34, R35, R37, R110): an event is
outstanding exactly while the interrupt flag is set, with its two components in the status and the
data register, only with the interface set up, and, while the run goes on, exactly while the source
is pending. -/
abbrev State.EventOk (s : State) : Prop :=
  s.ctl.intFlag = s.irq.i2cEvent.isSome ∧
    (∀ e, s.irq.i2cEvent = some e → e = (s.ctl.status, s.ctl.data)) ∧
    (s.ctl.enabled = false → s.irq.i2cEvent = none ∧ s.irq.pendingI2c = false) ∧
    (s.irq.run = .running → s.irq.pendingI2c = s.irq.i2cEvent.isSome)

/-- The pending buttons are listed once each, in rising order, and exist (R32). -/
abbrev Dispatcher.ButtonsOk (d : Dispatcher) : Prop :=
  d.pendingButtons.Pairwise (· < ·) ∧ ∀ k ∈ d.pendingButtons, k < Config.nButton

/-- The startup order and the lock (R30, R31, R33, R246): the interface is set up after the first
startup step, the context exists exactly after the second, and, short of a second `INSTALL`, the
mask is set exactly until the third and again for ever once the run is `Wedged`. -/
abbrev State.StartupOk (s : State) : Prop :=
  s.ctl.enabled = decide (s.env.startup ≠ .peripherals) ∧
    s.irq.ctxInstalled = decide (s.env.startup = .unmask ∨ s.env.startup = .idle) ∧
    (s.irq.run ≠ .fatal →
      s.irq.irqMask = decide (s.env.startup ≠ .idle ∨ s.irq.run = .wedged))

/-- The invariant of the machine. -/
abbrev State.Inv (s : State) : Prop :=
  Memory.wf s.dev.settings ∧ s.engine.UidQueued ∧ s.EventOk ∧ s.irq.ButtonsOk ∧ s.StartupOk

/-! ### How statements write the end of an event

Plain records: each lists every field that changes, and so that no other field does. -/

/-- `s` after an event that left the engine at `e` and made the calls `cs` before `Finish()` (R111).
-/
def State.finished (s : State) (e : Engine) (cs : List Call) : State :=
  { s with
    engine := e
    ctl := { s.ctl with ackEnable := true, intFlag := false }
    env := { s.env with calls := cs ++ [.ctlAckEnable, .ctlFlagClear] } }

/-- `s` after an event in a transmit state that left the engine at `e`, made the calls `cs`, and
then wrote the response byte `b`, which the bus master clocks in (R59, R111). -/
def State.responded (s : State) (e : Engine) (cs : List Call) (b : Byte) : State :=
  { s with
    engine := e
    ctl := { s.ctl with ackEnable := true, intFlag := false, data := b }
    env := { s.env with
      calls := cs ++ [.datWrite b, .ctlAckEnable, .ctlFlagClear], hostByte := some b } }

/-- `s` after an event in a transmit state that left the engine at `e` and made the calls `cs`, none
of which writes the data register: the bus master clocks in a draw (R62), which the data register
then holds (DESIGN CHOICE, log entry 13). -/
def State.unanswered (s : State) (e : Engine) (cs : List Call) : State :=
  { s with
    engine := e
    ctl := { s.ctl with
      ackEnable := true, intFlag := false, data := Config.drawU8 s.env.draws }
    env := { s.env with
      calls := cs ++ [.ctlAckEnable, .ctlFlagClear]
      hostByte := some (Config.drawU8 s.env.draws), draws := s.env.draws + 1 } }

/-- `s` with the engine at `e`, no call recorded yet, and one more `n` free values taken: how an
event stands when the operation it runs begins. -/
def State.starting (s : State) (e : Engine) (n : Nat) : State :=
  { s with engine := e, env := { s.env with calls := [], draws := s.env.draws + n } }

/-- The call writes the data register. -/
def Call.isDatWrite : Call → Bool
  | .datWrite _ => true
  | .settingsGet _ | .settingsSet _ _ | .adcSample _ | .vrmReadU8 _ | .vrmWriteU8 _ _ | .vrmReadRaw
  | .displayOrientation _ | .vrmEnableLine _ _ | .ctlAckEnable | .ctlStartSet | .ctlFlagClear =>
    false

/-- The call waits for a collaborator that may never answer (R57, R58, R117). -/
def Call.isBlocking : Call → Bool
  | .adcSample _ | .vrmReadU8 _ | .vrmWriteU8 _ _ | .vrmReadRaw => true
  | .settingsGet _ | .settingsSet _ _ | .displayOrientation _ | .vrmEnableLine _ _ | .datWrite _
  | .ctlAckEnable | .ctlStartSet | .ctlFlagClear => false

/-- `s` with `n` free values taken. -/
def State.withDraws (s : State) (n : Nat) : State := { s with env := { s.env with draws := n } }

/-- The collaborator never answers the call, if it is made in `s` (R57, R58). -/
def State.neverAnswers (s : State) : Call → Prop
  | .adcSample ch => s.adcAnswer ch = .hang
  | .vrmReadU8 _ | .vrmReadRaw => s.vrmReadAnswer = .hang
  | .vrmWriteU8 _ _ => s.vrmWriteAnswer = .hang
  | .settingsGet _ | .settingsSet _ _ | .displayOrientation _ | .vrmEnableLine _ _ | .datWrite _
  | .ctlAckEnable | .ctlStartSet | .ctlFlagClear => False

/-- `s` as the generic handler finds it on entry for the I2C source (R192, R220). -/
def State.enteredI2c (s : State) : State :=
  { s with
    irq := { s.irq with irqMask := true, pendingI2c := false }
    env := { s.env with calls := [] } }

end Sys2Proof.Machine
end

