-- ==== Sys2Proof/Certificates/Slice0/Obligations.lean ====
section
/-! DEFINITION. The statements for the provers. An equation `exec i s = .next t` with `t` written out
says that the operation completes, what it does, and that it changes nothing else. -/

open Sys2Proof Sys2Proof.Machine

/-! ### Encodings -/

/-- R80 to R95: the decoder reads back every operation that the encoder writes, every operand with
every value its row admits. -/
def Obligations.DecodeOfEncodeIsTheInstruction : Prop :=
  ∀ i : Instr, i.WellFormed → decode (encode i) = .ok i

/-- R85, R95, R99: whatever is decoded lies in the ranges of its row. -/
def Obligations.DecodedInstructionsAreWellFormed : Prop :=
  ∀ (sel : Selector) (i : Instr), decode sel = .ok i → i.WellFormed

/-- R82: `ST_OTHER` is the complement of the six codes, each code has its own class, and 250 of the
256 values are `ST_OTHER`. -/
def Obligations.StatusOtherIsTheComplementOfSixCodes : Prop :=
  (∀ status : Byte, classOf status = .other ↔ status ∉ Config.namedCodes) ∧
    Config.namedCodes.map classOf = [.swa, .dra, .spr, .sra, .dsa, .dsn] ∧
    ((List.range 256).filter fun n => classOf (BitVec.ofNat 8 n) = .other).length = 250

/-- R83, R84: the device is decided by the seven address bits, whatever the direction bit. That the
address is in bits 7 to 1 and that bit 0 plays no part is no word of the source: it is the spec's own
decision D3 (general knowledge of I2C), which the model takes (log entry 2, DEDUCED, unsafe). -/
def Obligations.DeviceIsDecodedFromTheAddressBits : Prop :=
  ∀ (a : Addr7) (rw : BitVec 1),
    (decodeDevice (a ++ rw) = .epower ↔ a = Config.addrEpower) ∧
      (decodeDevice (a ++ rw) = .pmic ↔ a = Config.addrPmic) ∧
      (decodeDevice (a ++ rw) = .none ↔ a ≠ Config.addrEpower ∧ a ≠ Config.addrPmic)

/-- R85 to R88, R94: a few words, written out from the spec's bit patterns. The spec's own decision
in it (log entry 18): D15. -/
def Obligations.WrittenOutWordsDecode : Prop :=
  decode (.cmdRead 0b00000010#8) = .ok .readUid ∧
    decode (.cmdRead 0b01000001#8) = .ok (.readSetting 1#6) ∧
    decode (.cmdRead 0b10000011#8) = .ok .readTelemetry3 ∧
    decode (.cmdRead 0b11111010#8) = .ok (.readUnmapped 122#7) ∧
    decode (.cmdRead 0b11111011#8) = .ok (.readReserved 251#8) ∧
    decode (.cmdWrite [0b01000101#8, 0x01#8]) = .ok (.writeSettingL2Enabled 0x01#8) ∧
    decode (.cmdWrite [0b01000001#8]) = .error .notTwoBytes ∧
    decode (.ptStop [0x21#8, 0x7F#8]) = .ok (.ptWrite 0x21#8 0x7F#8) ∧
    decode (.ptFirst []) = .ok .ptReadProbe ∧
    decode (.irq .telemTimer) = .ok .irqTelemTimer

/-! ### The status events -/

/-- R112, with R83 and R84 for the address: that it stands in bits 7 to 1 and that bit 0 plays no
part is the spec's own decision D3 (log entry 2, DEDUCED, unsafe). The spec's own decision in it
(log entry 18): D9. -/
def Obligations.StSwaEntersTheWriteModeAndClearsTheReceiveCursor : Prop :=
  ∀ (dat : Byte) (s : State), s.irq.run = .running →
    exec (.stSwa dat) s = .next (s.finished
      { s.engine with
        mode :=
          if addr7 dat = Config.addrEpower then .epowerWrite
          else if addr7 dat = Config.addrPmic then .passthroughWrite
          else .idle
        rxCursor := 0 } [])

/-- R113: stored in a write mode while there is room, dropped there beyond eight bytes, spurious in
any other mode. The spec's own decisions in it (log entry 18): D6, D9. -/
def Obligations.StDraStoresInWriteModesAndDropsOtherwise : Prop :=
  ∀ (dat : Byte) (s : State), s.irq.run = .running →
    (s.engine.mode = .epowerWrite ∨ s.engine.mode = .passthroughWrite → s.engine.rxCursor.val < 8 →
      exec (.stDra dat) s = .next (s.finished
        { s.engine with
          rxBuf := s.engine.rxBuf.setIfInBounds s.engine.rxCursor.val dat
          rxCursor := s.engine.rxCursor + 1 } [])) ∧
    (s.engine.mode = .epowerWrite ∨ s.engine.mode = .passthroughWrite → s.engine.rxCursor.val = 8 →
      exec (.stDra dat) s = .next (s.finished s.engine [])) ∧
    (s.engine.mode ≠ .epowerWrite → s.engine.mode ≠ .passthroughWrite →
      exec (.stDra dat) s = .next (s.finished s.engine []))

/-- R114: exactly two bytes in a write mode commit; a read mode clears both cursors; anything else
only ends the transaction. A commit that never answers ends there. The spec's own decisions in it
(log entry 18): D7, D9, D22, D26. -/
def Obligations.StSprCommitsTwoBytesOrClearsReadCursors : Prop :=
  ∀ s : State, s.irq.run = .running →
    (s.engine.mode = .passthroughWrite → s.engine.rxCursor = 2 →
      ∃ u, exec (.ptWrite s.engine.rxBuf[0] s.engine.rxBuf[1]) (s.starting s.engine 0) = .next u ∧
        exec .stSpr s = .next (if u.irq.run = .running then
          u.finished { u.engine with mode := .idle } u.env.calls else u)) ∧
    (s.engine.mode = .epowerWrite → s.engine.rxCursor = 2 →
      ∃ u, exec (decodeWrite s.engine.rxBuf[0] s.engine.rxBuf[1]) (s.starting s.engine 0) = .next u ∧
        u.irq.run = .running ∧
        exec .stSpr s = .next (u.finished { u.engine with mode := .idle } u.env.calls)) ∧
    (s.engine.mode = .epowerRead ∨ s.engine.mode = .passthroughRead →
      exec .stSpr s = .next (s.finished
        { s.engine with mode := .idle, rxCursor := 0, txCursor := 0 } [])) ∧
    (s.engine.mode = .epowerWrite ∨ s.engine.mode = .passthroughWrite → s.engine.rxCursor ≠ 2 →
      exec .stSpr s = .next (s.finished { s.engine with mode := .idle } [])) ∧
    (s.engine.mode = .idle → exec .stSpr s = .next (s.finished s.engine []))

/-- R115, R116: for the control device, the read that the latched command selects (a draw where none
is latched) runs, and then the step ends; for the PMIC, the bridge's first read; for neither, no
byte is written (that the data register then holds the byte clocked in is log entry 13). The spec's
own decisions in it (log entry 18): D7, D8, D9, D10, D11, D14, D22. -/
def Obligations.StSraRunsTheSelectedRead : Prop :=
  ∀ (dat : Byte) (s : State), s.irq.run = .running →
    (decodeDevice dat = .epower → s.engine.rxCursor ≠ 0 →
      ∃ u, exec (decodeRead s.engine.rxBuf[0])
          (s.starting { s.engine with mode := .epowerRead } 0) = .next u ∧
        exec (.stSra dat) s = .next (if u.irq.run = .running then u.finishTransmit else u)) ∧
    (decodeDevice dat = .epower → s.engine.rxCursor = 0 →
      ∃ u, exec (decodeRead (Config.drawU8 s.env.draws))
          (s.starting { s.engine with mode := .epowerRead } 1) = .next u ∧
        exec (.stSra dat) s = .next (if u.irq.run = .running then u.finishTransmit else u)) ∧
    (decodeDevice dat = .pmic →
      ∃ u, exec (decodePtFirst s.engine.latched)
          (s.starting { s.engine with mode := .passthroughRead } 0) = .next u ∧
        exec (.stSra dat) s = .next (if u.irq.run = .running then u.finishTransmit else u)) ∧
    (decodeDevice dat = .none →
      exec (.stSra dat) s = .next (s.unanswered { s.engine with mode := .idle } []))

/-- R59, R62, R111: `Finish()` in a transmit state sets acknowledge-enable and clears the interrupt
flag, and the bus master clocks in the data register if it was written, else a draw, which the data
register then holds (the model's choice, log entry 13). The spec's own decisions in it (log entry
18): D9, D10. -/
def Obligations.TransmitEndsWithTheByteWrittenOrADraw : Prop :=
  ∀ u : State,
    ((∃ b, Call.datWrite b ∈ u.env.calls) → u.finishTransmit =
      { u.finished u.engine u.env.calls with
        env := { (u.finished u.engine u.env.calls).env with hostByte := some u.ctl.data } }) ∧
    ((∀ b, Call.datWrite b ∉ u.env.calls) →
      u.finishTransmit = u.unanswered u.engine u.env.calls)

/-- R51, R89: what `ST_SRA` answers for a latched command of each band, telemetry apart. That the
data register holds the byte clocked in where none was written is log entry 13. The spec's own
decisions in it (log entry 18): D7, D9, D10, D13, D25. -/
def Obligations.FirstResponseByteOfEveryCommandBand : Prop :=
  ∀ (dat : Byte) (s : State), s.irq.run = .running → decodeDevice dat = .epower →
    s.engine.rxCursor ≠ 0 →
    (s.engine.rxBuf[0] = 1#8 → exec (.stSra dat) s = .next
      (s.responded { s.engine with mode := .epowerRead } [] Config.fwVersion)) ∧
    (s.engine.rxBuf[0] = 2#8 → exec (.stSra dat) s = .next
      (s.responded { s.engine with mode := .epowerRead, txBuf := uidBuf, txCursor := 3 } []
        (Config.deviceUid.extractLsb' 24 8))) ∧
    (s.engine.rxBuf[0].toNat ≤ 63 → s.engine.rxBuf[0] ≠ 1#8 → s.engine.rxBuf[0] ≠ 2#8 →
      ∃ t, exec (.stSra dat) s = .next t ∧
        t = { s.responded { s.engine with mode := .epowerRead } [] (Config.drawU8 s.env.draws) with
          env := { (s.responded { s.engine with mode := .epowerRead } []
            (Config.drawU8 s.env.draws)).env with draws := s.env.draws + 1 } }) ∧
    (64 ≤ s.engine.rxBuf[0].toNat → s.engine.rxBuf[0].toNat ≤ 127 →
      exec (.stSra dat) s = .next
        (s.responded { s.engine with mode := .epowerRead }
          [.settingsGet (s.engine.rxBuf[0].toNat - 64)]
          (settingAt s.dev.settings (s.engine.rxBuf[0].toNat - 64)))) ∧
    (133 ≤ s.engine.rxBuf[0].toNat → s.engine.rxBuf[0].toNat ≤ 250 →
      exec (.stSra dat) s = .next
        (s.unanswered { s.engine with mode := .epowerRead } [])) ∧
    (251 ≤ s.engine.rxBuf[0].toNat → exec (.stSra dat) s = .next
      (s.responded { s.engine with mode := .epowerRead } [] 0xEE#8))

/-- R118, with R59 and R62 for the byte that the bus master clocks in. That it is recorded in State,
and that after a downstream error, which writes none, the data register holds the draw clocked in,
is the model's choice (log entry 13, DESIGN CHOICE, unsafe on the data register). The spec's own
decisions in it (log entry 18): D9, D10, D12, D13, D22. -/
def Obligations.StDsaSendsQueuedStagedSentinelOrForwarded : Prop :=
  ∀ s : State, s.irq.run = .running →
    (s.engine.mode = .epowerRead → s.engine.txCursor ≠ 0 →
      exec .stDsa s = .next (s.responded { s.engine with txCursor := s.engine.txCursor - 1 } []
        s.engine.txBuf[s.engine.txCursor - 1])) ∧
    (s.engine.mode = .epowerRead → s.engine.txCursor = 0 →
      exec .stDsa s = .next (s.responded s.engine [] s.engine.staged)) ∧
    (s.engine.mode = .idle ∨ s.engine.mode = .epowerWrite ∨ s.engine.mode = .passthroughWrite →
      exec .stDsa s = .next (s.responded s.engine [] 0xEE#8)) ∧
    (s.engine.mode = .passthroughRead →
      ∃ u, exec .ptReadNext (s.starting s.engine 0) = .next u ∧
        exec .stDsa s = .next (if u.irq.run = .running then u.finishTransmit else u))

/-- R119. The spec's own decision in it (log entry 18): D9. -/
def Obligations.StDsnClearsBothCursors : Prop :=
  ∀ s : State, s.irq.run = .running →
    exec .stDsn s = .next (s.finished { s.engine with rxCursor := 0, txCursor := 0 } [])

/-- R120. That the data register and the recorded byte of the bus master stand unchanged, also where
the status is itself a transmit state, is the model's choice (log entry 13, DESIGN CHOICE, unsafe).
The spec's own decisions in it (log entry 18): D9, D17. -/
def Obligations.StOtherSetsStartAndChangesNoEngineRegister : Prop :=
  ∀ (code : Byte) (s : State), s.irq.run = .running →
    exec (.stOther code) s = .next
      { s.finished s.engine [.ctlStartSet] with
        ctl := { s.ctl with start := true, ackEnable := true, intFlag := false } }

/-- R121: the next mode is a function of the event alone, for an event that comes to its end. The
layout of the address byte is the spec's decision D3 (log entry 2, DEDUCED, unsafe). The spec's own
decisions in it (log entry 18): D11, D17. -/
def Obligations.NextModeDependsOnTheEventAlone : Prop :=
  ∀ (dat code : Byte) (s t : State), t.irq.run = .running →
    (exec (.stSwa dat) s = .next t → t.engine.mode =
      if addr7 dat = Config.addrEpower then .epowerWrite
      else if addr7 dat = Config.addrPmic then .passthroughWrite else .idle) ∧
    (exec (.stSra dat) s = .next t → t.engine.mode =
      if addr7 dat = Config.addrEpower then .epowerRead
      else if addr7 dat = Config.addrPmic then .passthroughRead else .idle) ∧
    (exec .stSpr s = .next t → t.engine.mode = .idle) ∧
    (∀ i ∈ [.stDra dat, .stDsa, .stDsn, .stOther code], exec i s = .next t →
      t.engine.mode = s.engine.mode)

/-- R122: which register each event may change, and which calls it may make of a collaborator. The
spec's own decisions in it (log entry 18): D7, D12, D14, D16, D17. -/
def Obligations.EventsChangeOnlyTheirRegisters : Prop :=
  ∀ (i : Instr) (s t : State), i.format = .status → exec i s = .next t →
    (t.engine.rxBuf ≠ s.engine.rxBuf → ∃ dat, i = .stDra dat) ∧
    (t.engine.rxCursor ≠ s.engine.rxCursor →
      (∃ dat, i = .stSwa dat) ∨ (∃ dat, i = .stDra dat) ∨ i = .stSpr ∨ i = .stDsn) ∧
    (t.engine.txBuf ≠ s.engine.txBuf ∨ t.engine.staged ≠ s.engine.staged →
      ∃ dat, i = .stSra dat) ∧
    (t.engine.txCursor ≠ s.engine.txCursor →
      i = .stSpr ∨ (∃ dat, i = .stSra dat) ∨ i = .stDsa ∨ i = .stDsn) ∧
    (t.engine.mode ≠ s.engine.mode →
      (∃ dat, i = .stSwa dat) ∨ i = .stSpr ∨ ∃ dat, i = .stSra dat) ∧
    (t.dev ≠ s.dev → i = .stSpr) ∧
    (∀ c ∈ t.env.calls, c.isDatWrite = false → c ∉ [.ctlAckEnable, .ctlStartSet, .ctlFlagClear] →
      (i = .stSpr ∧ ((∃ reg v, c = .vrmWriteU8 reg v) ∨ (∃ id v, c = .settingsSet id v) ∨
        (∃ v, c = .displayOrientation v) ∨ ∃ rail v, c = .vrmEnableLine rail v)) ∨
      ((∃ dat, i = .stSra dat) ∧ ((∃ id, c = .settingsGet id) ∨ (∃ ch, c = .adcSample ch) ∨
        ∃ reg, c = .vrmReadU8 reg)) ∨
      (i = .stDsa ∧ c = .vrmReadRaw))

/-- R111: an event that comes to its end ends with acknowledge-enable and then the flag clear,
writes the data register at most once, and does so only in a transmit state. The spec's own decision
in it (log entry 18): D9. -/
def Obligations.EventsEndWithFinishAndWriteAtMostOnce : Prop :=
  ∀ (i : Instr) (s t : State), i.format = .status → exec i s = .next t → t.irq.run = .running →
    (∃ cs, t.env.calls = cs ++ [.ctlAckEnable, .ctlFlagClear] ∧ Call.ctlFlagClear ∉ cs) ∧
    t.ctl.ackEnable = true ∧ t.ctl.intFlag = false ∧
    t.env.calls.countP Call.isDatWrite ≤ 1 ∧
    (t.env.calls.countP Call.isDatWrite ≠ 0 → (∃ dat, i = .stSra dat) ∨ i = .stDsa)

/-- R33, R115, R117: an event wedges only by a call that is never answered, its only one, and then
the controller, the collaborators and the other registers of the dispatcher are not touched, and the
engine is as it was when the call was made: unchanged by `ST_SPR` and `ST_DSA`, in the read mode of
the address by `ST_SRA`. The layout of the address byte is the spec's decision D3 (log entry 2). The
spec's own decision in it (log entry 18): D22. -/
def Obligations.WedgedEventsStopAtABlockingCall : Prop :=
  ∀ (i : Instr) (s t : State), i.format = .status → exec i s = .next t → t.irq.run = .wedged →
    (∃ c n, t.env.calls = [c] ∧ c.isBlocking = true ∧ t.env.draws = n + 1 ∧
      (s.withDraws n).neverAnswers c) ∧
    t.ctl = s.ctl ∧ t.dev = s.dev ∧ t.irq = { s.irq with run := .wedged } ∧
    ((i = .stSpr ∨ i = .stDsa) ∧ t.engine = s.engine ∨
      ∃ dat, i = .stSra dat ∧
        (addr7 dat = Config.addrEpower ∧ t.engine = { s.engine with mode := .epowerRead } ∨
          addr7 dat = Config.addrPmic ∧ t.engine = { s.engine with mode := .passthroughRead }))

/-! ### Command reads -/

/-- R141. -/
def Obligations.ReadVersionWritesTheVersionByte : Prop :=
  ∀ s : State, s.irq.run = .running →
    exec .readVersion s = .next
      { s with
        ctl := { s.ctl with data := Config.fwVersion }
        env := { s.env with calls := s.env.calls ++ [.datWrite Config.fwVersion] } }

/-- R142: the send buffer holds the identifier, least significant byte first, its most significant
byte is written, and three are left. The spec's own decision in it (log entry 18): D13. -/
def Obligations.ReadUidLoadsTheBufferAndWritesTheTopByte : Prop :=
  ∀ s : State, s.irq.run = .running →
    exec .readUid s = .next
      { s with
        engine := { s.engine with
          txBuf := #v[Config.deviceUid.extractLsb' 0 8, Config.deviceUid.extractLsb' 8 8,
            Config.deviceUid.extractLsb' 16 8, Config.deviceUid.extractLsb' 24 8]
          txCursor := 3 }
        ctl := { s.ctl with data := Config.deviceUid.extractLsb' 24 8 }
        env := { s.env with
          calls := s.env.calls ++ [.datWrite (Config.deviceUid.extractLsb' 24 8)] } }

/-- R143: an undefined constant writes one byte, a fresh draw, and changes no engine register. The
spec's own decision in it (log entry 18): D25. -/
def Obligations.UndefinedConstantReadsWriteOneDraw : Prop :=
  ∀ (n : BitVec 6) (s : State), s.irq.run = .running → ∀ i ∈ [.readUndef0, .readUndef n],
    exec i s = .next
      { s with
        ctl := { s.ctl with data := Config.drawU8 s.env.draws }
        env := { s.env with
          calls := s.env.calls ++ [.datWrite (Config.drawU8 s.env.draws)]
          draws := s.env.draws + 1 } }

/-- R56, R144: a recognized id answers the stored byte, any other id 0. -/
def Obligations.SettingReadsAnswerTheStoredByteOrZero : Prop :=
  ∀ (id : BitVec 6) (s : State), s.irq.run = .running →
    (id.toNat ≤ 6 → exec (.readSetting id) s = .next
      { s with
        ctl := { s.ctl with data := Memory.read s.dev.settings id.toNat }
        env := { s.env with
          calls := s.env.calls ++
            [.settingsGet id.toNat, .datWrite (Memory.read s.dev.settings id.toNat)] } }) ∧
    (7 ≤ id.toNat → exec (.readSettingUnrecognized id) s = .next
      { s with
        ctl := { s.ctl with data := 0#8 }
        env := { s.env with
          calls := s.env.calls ++ [.settingsGet id.toNat, .datWrite 0#8] } })

/-- R145: one sample of the selector's channel, the high byte written, the low byte staged; a
conversion that never ends wedges the run with no byte written. The spec's own decisions in it (log
entry 18): D12, D22, D30. -/
def Obligations.TelemetryReadsSplitOneSampleOfTheirChannel : Prop :=
  ∀ s : State, s.irq.run = .running →
    ∀ p ∈ [(Instr.readTelemetry0, 2), (.readTelemetry1, 1), (.readTelemetry2, 8),
      (.readTelemetry3, 10), (.readTelemetry4, 9)],
    (∀ v : Sample, s.adcAnswer p.2 = .sample v → exec p.1 s = .next
      { s with
        engine := { s.engine with staged := v.extractLsb' 0 8 }
        ctl := { s.ctl with data := v.extractLsb' 8 8 }
        env := { s.env with
          calls := s.env.calls ++ [.adcSample p.2, .datWrite (v.extractLsb' 8 8)]
          adc := s.env.adc.tail, draws := s.env.draws + 1 } }) ∧
    (s.adcAnswer p.2 = .hang → exec p.1 s = .next
      { s with
        irq := { s.irq with run := .wedged }
        env := { s.env with
          calls := s.env.calls ++ [.adcSample p.2]
          adc := s.env.adc.tail, draws := s.env.draws + 1 } })

/-- R146: no sample, no byte, no state change. -/
def Obligations.UnmappedReadsDoNothing : Prop :=
  ∀ (sel : BitVec 7) (s : State), s.irq.run = .running → 5 ≤ sel.toNat →
    exec (.readUnmapped sel) s = .next s

/-- R147. -/
def Obligations.ReservedReadsWriteTheSentinel : Prop :=
  ∀ (c : Byte) (s : State), s.irq.run = .running →
    exec (.readReserved c) s = .next
      { s with
        ctl := { s.ctl with data := 0xEE#8 }
        env := { s.env with calls := s.env.calls ++ [.datWrite 0xEE#8] } }

/-- R91, R142, R118, R61: a complete identifier read: the four bytes that the bus master clocks in
are the identifier's, most significant first, and a fifth is the staged byte. The index order is D13
(log entry 18), and State records the byte clocked in by log entry 13. The spec's own decisions in
it (log entry 18): D7, D12, D13. -/
def Obligations.UidReadDeliversMostSignificantByteFirst : Prop :=
  ∀ (dat : Byte) (s : State), s.irq.run = .running → decodeDevice dat = .epower →
    s.engine.rxCursor ≠ 0 → s.engine.rxBuf[0] = 2#8 →
    ∃ t0 t1 t2 t3 t4, exec (.stSra dat) s = .next t0 ∧ exec .stDsa t0 = .next t1 ∧
      exec .stDsa t1 = .next t2 ∧ exec .stDsa t2 = .next t3 ∧ exec .stDsa t3 = .next t4 ∧
      t0.env.hostByte = some (Config.deviceUid.extractLsb' 24 8) ∧
      t1.env.hostByte = some (Config.deviceUid.extractLsb' 16 8) ∧
      t2.env.hostByte = some (Config.deviceUid.extractLsb' 8 8) ∧
      t3.env.hostByte = some (Config.deviceUid.extractLsb' 0 8) ∧
      t4.env.hostByte = some s.engine.staged

/-- R64, R145: both bytes of a telemetry response come from the one sample taken at `ST_SRA`, with
no identifier bytes left over. State records the byte clocked in by log entry 13. The spec's own
decisions in it (log entry 18): D7, D12, D30. -/
def Obligations.TelemetryReadDeliversOneSample : Prop :=
  ∀ (dat : Byte) (sel ch : Nat) (v : Sample) (s : State), s.irq.run = .running →
    decodeDevice dat = .epower → s.engine.rxCursor ≠ 0 → s.engine.txCursor = 0 →
    (sel, ch) ∈ [(0, 2), (1, 1), (2, 8), (3, 10), (4, 9)] →
    s.engine.rxBuf[0].toNat = 128 + sel → s.adcAnswer ch = .sample v →
    ∃ t u, exec (.stSra dat) s = .next t ∧ exec .stDsa t = .next u ∧
      t.env.hostByte = some (v.extractLsb' 8 8) ∧ u.env.hostByte = some (v.extractLsb' 0 8) ∧
      t.env.calls.count (.adcSample ch) = 1 ∧ u.env.adc = s.env.adc.tail ∧
      u.engine.staged = v.extractLsb' 0 8

/-! ### Command writes -/

/-- R149, R151: the store, then the side channel of ids 4, 5 and 6 with the raw byte. That the
display's cells stand unchanged when the orientation is driven is the model's choice (log entry 9,
DESIGN CHOICE, unsafe): R60 puts outside the block what the display does. The spec's own decisions
in it (log entry 18): D15, D16. -/
def Obligations.RecognizedSettingWritesStoreAndDriveTheirSideChannel : Prop :=
  ∀ (id : BitVec 2) (v : Byte) (s : State), s.irq.run = .running →
    exec (.writeSetting id v) s = .next
      { s with
        dev := { s.dev with settings := Memory.write s.dev.settings id.toNat v }
        env := { s.env with calls := s.env.calls ++ [.settingsSet id.toNat v] } } ∧
    exec (.writeSettingL1Enabled v) s = .next
      { s with
        dev := { s.dev with
          settings := Memory.write s.dev.settings 4 v, enable1Sent := some v }
        env := { s.env with
          calls := s.env.calls ++ [.settingsSet 4 v, .vrmEnableLine 1 v] } } ∧
    exec (.writeSettingL2Enabled v) s = .next
      { s with
        dev := { s.dev with
          settings := Memory.write s.dev.settings 5 v, enable2Sent := some v }
        env := { s.env with
          calls := s.env.calls ++ [.settingsSet 5 v, .vrmEnableLine 2 v] } } ∧
    exec (.writeSettingOrientation v) s = .next
      { s with
        dev := { s.dev with
          settings := Memory.write s.dev.settings 6 v, orientationSent := some v }
        env := { s.env with
          calls := s.env.calls ++ [.settingsSet 6 v, .displayOrientation v] } }

/-- R150: accepted, nothing stored, no side channel, and a following read of the id answers 0. -/
def Obligations.UnrecognizedSettingWritesStoreNothing : Prop :=
  ∀ (id : BitVec 6) (v : Byte) (s : State), s.irq.run = .running → 7 ≤ id.toNat →
    ∃ t, exec (.writeSettingUnrecognized id v) s = .next t ∧
      t = { s with env := { s.env with calls := s.env.calls ++ [.settingsSet id.toNat v] } } ∧
      ∃ u, exec (.readSettingUnrecognized id) t = .next u ∧ u.ctl.data = 0#8

/-- R152: a two-byte write outside the settings band changes nothing. -/
def Obligations.WritesOutsideTheSettingsBandChangeNothing : Prop :=
  ∀ (n : BitVec 6) (m : BitVec 7) (v : Byte) (s : State), s.irq.run = .running →
    exec (.writeIgnoredLow n v) s = .next s ∧ exec (.writeIgnoredHigh m v) s = .next s

/-- R149: the round trip law, from command byte to command byte, and no other id is changed. -/
def Obligations.SettingWriteThenReadAnswersTheValueWritten : Prop :=
  ∀ (c v : Byte) (s : State), s.irq.run = .running → 64 ≤ c.toNat → c.toNat ≤ 70 →
    ∃ t u, exec (decodeWrite c v) s = .next t ∧ exec (decodeRead c) t = .next u ∧
      u.ctl.data = v ∧
      ∀ id, id ≠ c.toNat - 64 → settingAt u.dev.settings id = settingAt s.dev.settings id

/-- R56, R65: of all command reads and bridge operations none changes a setting, the display or a
side channel. -/
def Obligations.ReadsAndBridgeLeaveTheDevicesAlone : Prop :=
  ∀ (i : Instr) (s t : State), i.format = .cmdRead ∨ i.format = .pt → exec i s = .next t →
    t.dev = s.dev ∧ t.engine.mode = s.engine.mode ∧ t.engine.rxBuf = s.engine.rxBuf ∧
      t.engine.rxCursor = s.engine.rxCursor

/-! ### The pass-through bridge -/

/-- R171: one downstream write; success and failure leave the same state; a call that never answers
wedges the run. The spec's own decision in it (log entry 18): D22. -/
def Obligations.PtWriteForwardsOneRegisterWrite : Prop :=
  ∀ (reg v : Byte) (s : State), s.irq.run = .running →
    (s.vrmWriteAnswer ≠ .hang → exec (.ptWrite reg v) s = .next
      { s with env := { s.env with
        calls := s.env.calls ++ [.vrmWriteU8 reg v]
        vrmWrite := s.env.vrmWrite.tail, draws := s.env.draws + 1 } }) ∧
    (s.vrmWriteAnswer = .hang → exec (.ptWrite reg v) s = .next
      { s with
        irq := { s.irq with run := .wedged }
        env := { s.env with
          calls := s.env.calls ++ [.vrmWriteU8 reg v]
          vrmWrite := s.env.vrmWrite.tail, draws := s.env.draws + 1 } })

/-- R172: the probe byte makes no downstream call. -/
def Obligations.PtReadProbeWritesThePlaceholder : Prop :=
  ∀ s : State, s.irq.run = .running →
    exec .ptReadProbe s = .next
      { s with
        ctl := { s.ctl with data := 0xFF#8 }
        env := { s.env with calls := s.env.calls ++ [.datWrite 0xFF#8] } }

/-- R172, R173: one downstream read each; its byte is written, an error writes none, and a call that
never answers wedges the run. The spec's own decisions in it (log entry 18): D14, D22. -/
def Obligations.BridgeReadsForwardTheByteOrNothing : Prop :=
  ∀ (reg : Byte) (s : State), s.irq.run = .running →
    ∀ p ∈ [(Instr.ptReadFirst reg, Call.vrmReadU8 reg), (.ptReadNext, .vrmReadRaw)],
    (∀ b, s.vrmReadAnswer = .ok b → exec p.1 s = .next
      { s with
        ctl := { s.ctl with data := b }
        env := { s.env with
          calls := s.env.calls ++ [p.2, .datWrite b]
          vrmRead := s.env.vrmRead.tail, draws := s.env.draws + 1 } }) ∧
    (s.vrmReadAnswer = .err → exec p.1 s = .next
      { s with env := { s.env with
        calls := s.env.calls ++ [p.2]
        vrmRead := s.env.vrmRead.tail, draws := s.env.draws + 1 } }) ∧
    (s.vrmReadAnswer = .hang → exec p.1 s = .next
      { s with
        irq := { s.irq with run := .wedged }
        env := { s.env with
          calls := s.env.calls ++ [p.2]
          vrmRead := s.env.vrmRead.tail, draws := s.env.draws + 1 } })

/-- R174: nothing goes downstream and the latch is kept. The spec's own decision in it (log entry
18): D7. -/
def Obligations.PtLatchChangesNothing : Prop :=
  ∀ s : State, s.irq.run = .running → exec .ptLatch s = .next s

/-- R114, R171, R174: the end of a pass-through write runs the bridge row that the latched payload
selects. The spec's own decisions in it (log entry 18): D7, D9, D22. -/
def Obligations.StSprRunsTheBridgeRowOfTheLatchedPayload : Prop :=
  ∀ s : State, s.irq.run = .running → s.engine.mode = .passthroughWrite →
    ∃ u, exec (decodePtStop s.engine.latched) (s.starting s.engine 0) = .next u ∧
      exec .stSpr s = .next (if u.irq.run = .running then
        u.finished { u.engine with mode := .idle } u.env.calls else u)

/-! ### The dispatcher -/

/-- R190: the first `INSTALL` creates the context and a fresh engine; a second ends the run. The
spec's own decisions in it (log entry 18): D12, D18. -/
def Obligations.InstallCreatesTheContextOnce : Prop :=
  ∀ s : State, s.irq.run = .running →
    (s.irq.ctxInstalled = false → ∃ t, exec .install s = .next t ∧
      t.irq = { s.irq with ctxInstalled := true } ∧ t.engine.mode = .idle ∧
      t.engine.rxCursor = 0 ∧ t.engine.txCursor = 0 ∧
      t.engine.staged = Config.drawU8 (s.env.draws + 12) ∧
      (∀ k : Fin 8, t.engine.rxBuf[k] = Config.drawU8 (s.env.draws + k.val)) ∧
      (∀ k : Fin 4, t.engine.txBuf[k] = Config.drawU8 (s.env.draws + 8 + k.val)) ∧
      t.ctl = s.ctl ∧ t.dev = s.dev ∧ t.env = { s.env with draws := s.env.draws + 13 }) ∧
    (s.irq.ctxInstalled = true → exec .install s = .next
      { s with irq := { s.irq with run := .fatal } })

/-- R191: `UNMASK` clears the mask where a context exists, and has no step where none does. -/
def Obligations.UnmaskNeedsTheContext : Prop :=
  ∀ s : State, s.irq.run = .running →
    (s.irq.ctxInstalled = true → exec .unmask s = .next
      { s with irq := { s.irq with irqMask := false } }) ∧
    (s.irq.ctxInstalled = false → exec .unmask s = .refused .unmaskWithoutContext)

/-- R192, R193: an enabled I2C dispatch takes the mask, runs the event that the status byte decodes
to, forgets the event and releases the mask; the last two are not reached if a call never answers.
The spec's own decisions in it (log entry 18): D21, D22. -/
def Obligations.I2cDispatchRunsTheDecodedEvent : Prop :=
  ∀ (status dat : Byte) (s : State), s.irq.run = .running → s.irq.ctxInstalled = true →
    s.irq.irqMask = false → s.irq.pendingI2c = true → s.irq.i2cEvent = some (status, dat) →
    ∃ u, exec (decodeStatus status dat) s.enteredI2c = .next u ∧
      exec .irqI2c s = .next (if u.irq.run = .running then
        { u with irq := { u.irq with i2cEvent := none, irqMask := false } } else u)

/-- R192, R194, R197: a button's dispatch may change the display and the settings, and nothing else
but its pending bit and the model's record. The spec's own decision in it (log entry 18): D21. -/
def Obligations.ButtonDispatchLeavesTheEngineAlone : Prop :=
  ∀ (k : Nat) (s : State), s.irq.run = .running → s.irq.ctxInstalled = true →
    s.irq.irqMask = false → k ∈ s.irq.pendingButtons →
    exec (.irqButton k) s = .next
      { s with
        irq := { s.irq with
          pendingButtons := s.irq.pendingButtons.filter (· ≠ k), irqMask := false }
        dev := { s.dev with
          display := (s.buttonEffect k).display
          settings := settingsAfter s.dev.settings (s.buttonEffect k).writes }
        env := { s.env with
          calls := [], buttonFx := s.env.buttonFx.tail, draws := s.env.draws + 1 } }

/-- R192, R195, R197: the display timer's dispatch may change the display only. The spec's own
decision in it (log entry 18): D21. -/
def Obligations.DispTimerDispatchChangesTheDisplayOnly : Prop :=
  ∀ s : State, s.irq.run = .running → s.irq.ctxInstalled = true → s.irq.irqMask = false →
    s.irq.pendingDisp = true →
    exec .irqDispTimer s = .next
      { s with
        irq := { s.irq with pendingDisp := false, irqMask := false }
        dev := { s.dev with display := s.dispEffect }
        env := { s.env with
          calls := [], dispFx := s.env.dispFx.tail, draws := s.env.draws + 1 } }

/-- R192, R196, R197: the telemetry timer's dispatch may change the display only; where a call in it
never answers the run is wedged with the mask held. The spec's own decisions in it (log entry 18):
D21, D22. -/
def Obligations.TelemTimerDispatchChangesTheDisplayOrWedges : Prop :=
  ∀ (d : Display) (s : State), s.irq.run = .running → s.irq.ctxInstalled = true →
    s.irq.irqMask = false → s.irq.pendingTelem = true →
    (s.telemEffect = .done d → exec .irqTelemTimer s = .next
      { s with
        irq := { s.irq with pendingTelem := false, irqMask := false }
        dev := { s.dev with display := d }
        env := { s.env with
          calls := [], telemFx := s.env.telemFx.tail, draws := s.env.draws + 1 } }) ∧
    (s.telemEffect = .hang d → exec .irqTelemTimer s = .next
      { s with
        irq := { s.irq with pendingTelem := false, irqMask := true, run := .wedged }
        dev := { s.dev with display := d }
        env := { s.env with
          calls := [], telemFx := s.env.telemFx.tail, draws := s.env.draws + 1 } })

/-- R219: a source is dispatched only with the context installed, the mask clear and the source
pending. -/
def Obligations.DispatchNeedsContextUnmaskedAndPending : Prop :=
  ∀ (src : Source) (s : State), s.irq.run = .running →
    (s.irq.ctxInstalled = false ∨ s.irq.irqMask = true ∨ s.irq.isPending src = false) →
    exec (decodeSource src) s = .refused .dispatchNotEnabled

/-- R33, R210: a run that is `Wedged` or `Fatal` stays so: no operation and no agent has a step. The
spec's own decision in it (log entry 18): D22. -/
def Obligations.StoppedRunsHaveNoStep : Prop :=
  ∀ (i : Instr) (s : State),
    (s.irq.run = .wedged → exec i s = .fault .wedged ∧ step s = .fault .wedged) ∧
    (s.irq.run = .fatal →
      exec i s = .fault .fatalAlreadyInitialized ∧ step s = .fault .fatalAlreadyInitialized)

/-! ### Steps -/

/-- R192, R219: a step whose move, listed in the schedule, is the dispatch of an enabled source is the
meaning of the operation that the source decodes to, with the move taken. The list of moves is the
model's (log entry 4), and so is the second clause (log entry 11, DESIGN CHOICE): R219 gives no step
to a source that is not enabled; the model lets the CPU idle in a step. Moves beyond the list are
free and no part of this statement. -/
def Obligations.StepRunsTheDispatchedInstruction : Prop :=
  ∀ (src : Source) (ms : List Move) (s : State), s.irq.run = .running →
    s.env.schedule = .dispatch src :: ms →
    (s.irq.enables src = true →
      step s = exec (decodeSource src) { s with env := { s.env with schedule := ms } }) ∧
    (s.irq.enables src = false →
      step s = .next { s with env := { s.env with schedule := ms } })

/-- R246: with no move listed the startup code goes on: peripheral initialisation, `INSTALL`,
`UNMASK`; each step is one (log entries 4, 10). R246 does not say what peripheral initialisation
leaves alone: that the status and data registers stand unchanged (log entry 8, DESIGN CHOICE, unsafe),
and the rest with them, display and engine among it (log entry 14), is the model's choice. -/
def Obligations.StartupRunsInTheOrderOfBoot : Prop :=
  ∀ s : State, s.irq.run = .running → s.env.schedule = [] →
    (s.env.startup = .peripherals → step s = .next
      { s with
        ctl := { s.ctl with
          enabled := true, ackEnable := true, start := false, intFlag := false
          ownAddrs := [Config.addrEpower, Config.addrPmic] }
        env := { s.env with startup := .install, draws := s.env.draws + 1 } }) ∧
    (s.env.startup = .install → step s =
      exec .install { s with env := { s.env with startup := .unmask, draws := s.env.draws + 1 } }) ∧
    (s.env.startup = .unmask → step s =
      exec .unmask { s with env := { s.env with startup := .idle, draws := s.env.draws + 1 } })

/-- R32, R34, R37, R217: the bus presents an event only when the interface is set up and no event is
outstanding; otherwise it stays stalled. What gates it is log entry 14, that the stalled bus's move
idles in a step is log entry 11, and that START and acknowledge-enable stand is log entry 19. The
spec's own decision in it (log entry 18): D20. -/
def Obligations.BusPresentsOnlyWhenNothingIsOutstanding : Prop :=
  ∀ (status dat : Byte) (ms : List Move) (s : State), s.irq.run = .running →
    s.env.schedule = .bus status dat :: ms →
    (s.ctl.enabled = true → s.ctl.intFlag = false → s.irq.pendingI2c = false →
      s.irq.i2cEvent = none → step s = .next
        { s with
          ctl := { s.ctl with intFlag := true, status := status, data := dat }
          irq := { s.irq with pendingI2c := true, i2cEvent := some (status, dat) }
          env := { s.env with schedule := ms } }) ∧
    (s.ctl.enabled = false ∨ s.ctl.intFlag = true ∨ s.irq.pendingI2c = true ∨
      s.irq.i2cEvent ≠ none → step s = .next { s with env := { s.env with schedule := ms } })

/-- R32, R218: a button or timer may fire in any running state, also while masked; it sets its own
pending bit and changes nothing else, and a second arrival before the dispatch merges with the first
(the spec's decision D20, log entry 18). The spec's own decision in it (log entry 18): D20. -/
def Obligations.SourcesLatchAndArrivalsMerge : Prop :=
  ∀ (ms : List Move) (s : State), s.irq.run = .running →
    (s.env.schedule = .dispTick :: ms → step s = .next
      { s with
        irq := { s.irq with pendingDisp := true }
        env := { s.env with schedule := ms } }) ∧
    (s.env.schedule = .telemTick :: ms → step s = .next
      { s with
        irq := { s.irq with pendingTelem := true }
        env := { s.env with schedule := ms } }) ∧
    (∀ k < Config.nButton, s.env.schedule = .buttonEdge k :: ms → ∃ l, step s = .next
        { s with
          irq := { s.irq with pendingButtons := l }
          env := { s.env with schedule := ms } } ∧
      k ∈ l ∧ (∀ j ≠ k, j ∈ l ↔ j ∈ s.irq.pendingButtons) ∧
      (s.irq.ButtonsOk → l.Pairwise (· < ·) ∧
        (k ∈ s.irq.pendingButtons → l = s.irq.pendingButtons)))

/-- R32, R217, R223: a pending source stays pending until it is dispatched. The spec's own decision
in it (log entry 18): D20. -/
def Obligations.PendingSourcesAreNeverLost : Prop :=
  ∀ (src : Source) (s t : State), s.irq.isPending src = true → step s = .next t →
    s.nextMove ≠ .dispatch src → t.irq.isPending src = true

/-- R21 to R28, R67, R197, R259: a step changes an engine register only by dispatching the I2C
source or, before the context exists, by `INSTALL`. -/
def Obligations.EngineChangesOnlyByI2cDispatchOrInstall : Prop :=
  ∀ s t : State, step s = .next t → t.engine ≠ s.engine →
    s.nextMove = .dispatch .i2c ∨
      s.nextMove = .startup ∧ s.env.startup = .install ∧ s.irq.ctxInstalled = false

/-- R34, R35, R120: once the interface is set up nothing clears START or acknowledge-enable, and
only an I2C dispatch of a status that is none of the six sets START. R34 and R35 say so of the
block; that the controller of itself changes neither bit is the model's choice (log entry 19, DESIGN
CHOICE, unsafe). The spec's own decision in it (log entry 18): D17. -/
def Obligations.StartIsSetOnlyByUnhandledStatusAndNeverCleared : Prop :=
  ∀ s t : State, step s = .next t → s.env.startup ≠ .peripherals →
    (s.ctl.start = true → t.ctl.start = true) ∧
    (s.ctl.ackEnable = true → t.ctl.ackEnable = true) ∧
    (s.ctl.start = false → t.ctl.start = true → s.nextMove = .dispatch .i2c ∧
      ∃ e, s.irq.i2cEvent = some e ∧ classOf e.1 = .other)

/-! ### Reset and the invariant -/

/-- R41, R240: the values the spec gives for reset. The spec's own decisions in it (log entry 18):
D18, D20, D22. -/
def Obligations.ResetLeavesTheSpecsValues : Prop :=
  State.reset.engine.mode = .idle ∧ State.reset.engine.rxCursor = 0 ∧
    State.reset.engine.txCursor = 0 ∧ State.reset.irq.ctxInstalled = false ∧
    State.reset.irq.irqMask = true ∧ State.reset.NothingPending ∧
    State.reset.irq.i2cEvent = none ∧ State.reset.irq.run = .running ∧
    ∀ id < 7, settingAt State.reset.dev.settings id = Config.settingsInit id

/-- R246, R262: three steps from reset the block is booted, its engine quiet, nothing pending, and
the interface answers both addresses. The spec's own decision in it (log entry 18): D18. -/
def Obligations.ThreeStepsFromResetBootTheBlock : Prop :=
  ∃ t, Host.Core.run Sys2Proof.core 3 State.reset = .next t ∧ State.Booted t ∧
    State.EngineQuiet t ∧ State.NothingPending t ∧
    Controller.ownAddrs (State.ctl t) = [Config.addrEpower, Config.addrPmic]

/-- The reset state meets the invariant. It does so only because the interrupt flag is clear and the
interface not enabled at reset, which the source does not give and the model chooses (log entry 8,
DESIGN CHOICE, unsafe); the form of the settings space and the startup position are log entries 7
and 10. The spec's own decisions in it (log entry 18): D18, D20. -/
def Obligations.ResetMeetsTheInvariant : Prop := State.reset.Inv

/-- R29 to R33 (with log entries 7, 10 and 14 for what is the model's): every step keeps the
invariant, from every state that meets it: the settings space stays canonical, a queued identifier
stays one, the event, the interrupt flag and the pending bit stay in step, the startup order and the
lock are kept. The spec's own decisions in it (log entry 18): D18, D20, D21, D22. -/
def Obligations.EveryStepKeepsTheInvariant : Prop :=
  ∀ s t : State, s.Inv → step s = .next t → t.Inv

/-- R210, R212, "Nothing in this core is fatal at runtime": from a running state that meets the
invariant every step has a next state, whatever the agents do, and it is never `Fatal`. That a move which
no rule enables has a next state too, idling, is the model's choice (log entry 11, DESIGN CHOICE:
R217 and R219 give it no step); for the invariant see log entries 7, 10 and 14. -/
def Obligations.RunningStepsNeverStopAndAreNeverFatal : Prop :=
  ∀ s : State, s.Inv → s.irq.run = .running →
    ∃ t, step s = .next t ∧ t.irq.run ≠ .fatal

/-- R117, R210: a step wedges a run only by a call that is never answered: one in the telemetry
timer's handler, or the last call of an I2C dispatch. The draw count tells which free value the
answer was, where none was listed. The spec's own decision in it (log entry 18): D22. -/
def Obligations.OnlyUnansweredCallsWedge : Prop :=
  ∀ s t : State, step s = .next t → t.irq.run = .wedged → ∃ n, t.env.draws = n + 1 ∧
    (s.nextMove = .dispatch .telemTimer ∧ (∃ d, (s.withDraws n).telemEffect = .hang d) ∨
      s.nextMove = .dispatch .i2c ∧
        ∃ cs c, t.env.calls = cs ++ [c] ∧ c.isBlocking = true ∧ (s.withDraws n).neverAnswers c)

/-- R97, R98, R149, R250, R252: on the bus, a WRITE of a setting and then a READ of it deliver the
value written, and the READ ends with both cursors 0; whether or not the STOP after the read segment
is an event, in which case the mode is `Idle` too. The address byte's layout is log entry 2, and
State records the byte clocked in by log entry 13. The spec's own decisions in it (log entry 18):
D7, D16. -/
def Obligations.SettingTransactionsRoundTrip : Prop :=
  ∀ (c v : Byte) (stopSeen : Bool) (s : State), s.irq.run = .running →
    64 ≤ c.toNat → c.toNat ≤ 70 →
    ∃ t, afterEvents ((writeIdiom c v ++ readIdiom c 0 stopSeen).flatMap Segment.events) s =
        .next t ∧
      t.env.hostByte = some v ∧ t.irq.run = .running ∧ t.engine.rxCursor = 0 ∧
      t.engine.txCursor = 0 ∧ settingAt t.dev.settings (c.toNat - 64) = v ∧
      t.engine.mode = if stopSeen then .idle else .epowerRead

/-- R117, R224, R262: a handler ends if the call it makes answers: where the answers that a run of
`n` steps can take are listed and none of them is a hang, no step of it wedges the run. The spec's
own decision in it (log entry 18): D22. -/
def Obligations.AnsweredStepsDoNotWedge : Prop :=
  (∀ (n : Nat) (s t : State), s.CollaboratorsAnswer (n + 1) → step s = .next t →
    t.irq.run ≠ .wedged ∧ t.CollaboratorsAnswer n) ∧
  ∀ (n : Nat) (s t : State), s.CollaboratorsAnswer n → s.irq.run ≠ .wedged →
    Host.Core.run Sys2Proof.core n s = .next t → t.irq.run ≠ .wedged
end

