-- ==== Sys2Proof/Laws/Decode.lean ====
section
/-! SUPPORT. The decode stages on the values that select each case: the status parameters, and the
address bytes of the two devices with either direction bit. -/

namespace Sys2Proof

@[simp] theorem classOf_stSwa : classOf Config.stSwa = .swa := by simp [classOf]

@[simp] theorem classOf_stDra : classOf Config.stDra = .dra := by
  simp [classOf, Config.stSwa, Config.stDra]

@[simp] theorem classOf_stSpr : classOf Config.stSpr = .spr := by
  simp [classOf, Config.stSwa, Config.stDra, Config.stSpr]

@[simp] theorem classOf_stSra : classOf Config.stSra = .sra := by
  simp [classOf, Config.stSwa, Config.stDra, Config.stSpr, Config.stSra]

@[simp] theorem classOf_stDsa : classOf Config.stDsa = .dsa := by
  simp [classOf, Config.stSwa, Config.stDra, Config.stSpr, Config.stSra, Config.stDsa]

@[simp] theorem classOf_stDsn : classOf Config.stDsn = .dsn := by
  simp [classOf, Config.stSwa, Config.stDra, Config.stSpr, Config.stSra, Config.stDsa,
    Config.stDsn]

theorem classOf_of_not_named {code : Byte} (h : code ∉ Config.namedCodes) :
    classOf code = .other := by
  simp only [Config.namedCodes, List.mem_cons, List.not_mem_nil, or_false, not_or] at h
  simp [classOf, h]

/-- The two addresses differ (R6). -/
theorem addrPmic_ne_addrEpower : Config.addrPmic ≠ Config.addrEpower := by
  simp [Config.addrPmic, Config.addrEpower, Config.slaveAddrs.injective.eq_iff]

@[simp] theorem addr7_addrByte (a : Addr7) (rw : BitVec 1) : addr7 (addrByte a rw) = a := by
  revert a rw
  decide

@[simp] theorem decodeDevice_epower (rw : BitVec 1) :
    decodeDevice (addrByte Config.addrEpower rw) = .epower := by
  simp [decodeDevice]

@[simp] theorem decodeDevice_pmic (rw : BitVec 1) :
    decodeDevice (addrByte Config.addrPmic rw) = .pmic := by
  simp [decodeDevice, addrPmic_ne_addrEpower]

/-! ### The rows, by range -/

theorem toNat_ne_of_ne {c : Byte} {n : Nat} (hn : n < 256) (h : ¬c = BitVec.ofNat 8 n) :
    c.toNat ≠ n := fun he => h (BitVec.eq_of_toNat_eq (by
      rw [he, BitVec.toNat_ofNat, Nat.mod_eq_of_lt hn]))

/-- What holds of every CMD_READ row on its own range of commands holds of the decoded one. -/
theorem decodeRead_elim {P : Instr → Prop} (c : Byte)
    (undef0 : c = 0#8 → P .readUndef0) (version : c = 1#8 → P .readVersion)
    (uid : c = 2#8 → P .readUid)
    (undef : 3 ≤ c.toNat → c.toNat ≤ 63 → P (.readUndef (c.extractLsb' 0 6)))
    (setting : 64 ≤ c.toNat → c.toNat ≤ 70 → P (.readSetting (c.extractLsb' 0 6)))
    (unrec : 71 ≤ c.toNat → c.toNat ≤ 127 → P (.readSettingUnrecognized (c.extractLsb' 0 6)))
    (tel0 : c = 128#8 → P .readTelemetry0) (tel1 : c = 129#8 → P .readTelemetry1)
    (tel2 : c = 130#8 → P .readTelemetry2) (tel3 : c = 131#8 → P .readTelemetry3)
    (tel4 : c = 132#8 → P .readTelemetry4)
    (unmapped : 133 ≤ c.toNat → c.toNat ≤ 250 → P (.readUnmapped (c.extractLsb' 0 7)))
    (reserved : 251 ≤ c.toNat → P (.readReserved c)) : P (decodeRead c) := by
  unfold decodeRead
  by_cases h0 : c = 0#8
  · rw [if_pos h0]; exact undef0 h0
  rw [if_neg h0]
  by_cases h1 : c = 1#8
  · rw [if_pos h1]; exact version h1
  rw [if_neg h1]
  by_cases h2 : c = 2#8
  · rw [if_pos h2]; exact uid h2
  rw [if_neg h2]
  have n0 := toNat_ne_of_ne (by decide) h0
  have n1 := toNat_ne_of_ne (by decide) h1
  have n2 := toNat_ne_of_ne (by decide) h2
  by_cases h3 : c.toNat ≤ 63
  · rw [if_pos h3]; exact undef (by omega) h3
  rw [if_neg h3]
  by_cases h4 : c.toNat ≤ 70
  · rw [if_pos h4]; exact setting (by omega) h4
  rw [if_neg h4]
  by_cases h5 : c.toNat ≤ 127
  · rw [if_pos h5]; exact unrec (by omega) h5
  rw [if_neg h5]
  by_cases h6 : c = 128#8
  · rw [if_pos h6]; exact tel0 h6
  rw [if_neg h6]
  by_cases h7 : c = 129#8
  · rw [if_pos h7]; exact tel1 h7
  rw [if_neg h7]
  by_cases h8 : c = 130#8
  · rw [if_pos h8]; exact tel2 h8
  rw [if_neg h8]
  by_cases h9 : c = 131#8
  · rw [if_pos h9]; exact tel3 h9
  rw [if_neg h9]
  by_cases h10 : c = 132#8
  · rw [if_pos h10]; exact tel4 h10
  rw [if_neg h10]
  have n6 := toNat_ne_of_ne (by decide) h6
  have n7 := toNat_ne_of_ne (by decide) h7
  have n8 := toNat_ne_of_ne (by decide) h8
  have n9 := toNat_ne_of_ne (by decide) h9
  have n10 := toNat_ne_of_ne (by decide) h10
  by_cases h11 : c.toNat ≤ 250
  · rw [if_pos h11]; exact unmapped (by omega) h11
  · rw [if_neg h11]; exact reserved (by omega)

/-- What holds of every CMD_WRITE row on its own range of commands holds of the decoded one. -/
theorem decodeWrite_elim {P : Instr → Prop} (c v : Byte)
    (low : c.toNat ≤ 63 → P (.writeIgnoredLow (c.extractLsb' 0 6) v))
    (setting : 64 ≤ c.toNat → c.toNat ≤ 67 → P (.writeSetting (c.extractLsb' 0 2) v))
    (l1 : c = 68#8 → P (.writeSettingL1Enabled v)) (l2 : c = 69#8 → P (.writeSettingL2Enabled v))
    (orientation : c = 70#8 → P (.writeSettingOrientation v))
    (unrec : 71 ≤ c.toNat → c.toNat ≤ 127 → P (.writeSettingUnrecognized (c.extractLsb' 0 6) v))
    (high : 128 ≤ c.toNat → P (.writeIgnoredHigh (c.extractLsb' 0 7) v)) :
    P (decodeWrite c v) := by
  unfold decodeWrite
  by_cases h0 : c.toNat ≤ 63
  · rw [if_pos h0]; exact low h0
  rw [if_neg h0]
  by_cases h1 : c.toNat ≤ 67
  · rw [if_pos h1]; exact setting (by omega) h1
  rw [if_neg h1]
  by_cases h2 : c = 68#8
  · rw [if_pos h2]; exact l1 h2
  rw [if_neg h2]
  by_cases h3 : c = 69#8
  · rw [if_pos h3]; exact l2 h3
  rw [if_neg h3]
  by_cases h4 : c = 70#8
  · rw [if_pos h4]; exact orientation h4
  rw [if_neg h4]
  have n2 := toNat_ne_of_ne (by decide) h2
  have n3 := toNat_ne_of_ne (by decide) h3
  have n4 := toNat_ne_of_ne (by decide) h4
  by_cases h5 : c.toNat ≤ 127
  · rw [if_pos h5]; exact unrec (by omega) h5
  · rw [if_neg h5]; exact high (by omega)

end Sys2Proof
end

