-- ==== Sys2Proof/Laws/State.lean ====
section
/-! SUPPORT. What each named update of the state does to each part of the state, true by unfolding:
with these no later proof unfolds a record update. -/

namespace Sys2Proof.Machine

variable (s : State)

/-! `wedge` -/

@[simp] theorem State.wedge_engine :
    (s.wedge).engine = s.engine := rfl
@[simp] theorem State.wedge_ctl :
    (s.wedge).ctl = s.ctl := rfl
@[simp] theorem State.wedge_irq :
    (s.wedge).irq = { s.irq with run := .wedged } := rfl
@[simp] theorem State.wedge_dev :
    (s.wedge).dev = s.dev := rfl
@[simp] theorem State.wedge_env :
    (s.wedge).env = s.env := rfl

/-! `raiseFatal` -/

@[simp] theorem State.raiseFatal_engine :
    (s.raiseFatal).engine = s.engine := rfl
@[simp] theorem State.raiseFatal_ctl :
    (s.raiseFatal).ctl = s.ctl := rfl
@[simp] theorem State.raiseFatal_irq :
    (s.raiseFatal).irq = { s.irq with run := .fatal } := rfl
@[simp] theorem State.raiseFatal_dev :
    (s.raiseFatal).dev = s.dev := rfl
@[simp] theorem State.raiseFatal_env :
    (s.raiseFatal).env = s.env := rfl

/-! `tookDraw` -/

@[simp] theorem State.tookDraw_engine :
    (s.tookDraw).engine = s.engine := rfl
@[simp] theorem State.tookDraw_ctl :
    (s.tookDraw).ctl = s.ctl := rfl
@[simp] theorem State.tookDraw_irq :
    (s.tookDraw).irq = s.irq := rfl
@[simp] theorem State.tookDraw_dev :
    (s.tookDraw).dev = s.dev := rfl
@[simp] theorem State.tookDraw_env :
    (s.tookDraw).env = { s.env with draws := s.env.draws + 1 } := rfl

/-! `record` -/

@[simp] theorem State.record_engine (c : Call) :
    (s.record c).engine = s.engine := rfl
@[simp] theorem State.record_ctl (c : Call) :
    (s.record c).ctl = s.ctl := rfl
@[simp] theorem State.record_irq (c : Call) :
    (s.record c).irq = s.irq := rfl
@[simp] theorem State.record_dev (c : Call) :
    (s.record c).dev = s.dev := rfl
@[simp] theorem State.record_env (c : Call) :
    (s.record c).env = { s.env with calls := s.env.calls ++ [c] } := rfl

/-! `clearCalls` -/

@[simp] theorem State.clearCalls_engine :
    (s.clearCalls).engine = s.engine := rfl
@[simp] theorem State.clearCalls_ctl :
    (s.clearCalls).ctl = s.ctl := rfl
@[simp] theorem State.clearCalls_irq :
    (s.clearCalls).irq = s.irq := rfl
@[simp] theorem State.clearCalls_dev :
    (s.clearCalls).dev = s.dev := rfl
@[simp] theorem State.clearCalls_env :
    (s.clearCalls).env = { s.env with calls := [] } := rfl

/-! `setMode` -/

@[simp] theorem State.setMode_engine (m : Mode) :
    (s.setMode m).engine = { s.engine with mode := m } := rfl
@[simp] theorem State.setMode_ctl (m : Mode) :
    (s.setMode m).ctl = s.ctl := rfl
@[simp] theorem State.setMode_irq (m : Mode) :
    (s.setMode m).irq = s.irq := rfl
@[simp] theorem State.setMode_dev (m : Mode) :
    (s.setMode m).dev = s.dev := rfl
@[simp] theorem State.setMode_env (m : Mode) :
    (s.setMode m).env = s.env := rfl

/-! `clearRx` -/

@[simp] theorem State.clearRx_engine :
    (s.clearRx).engine = { s.engine with rxCursor := 0 } := rfl
@[simp] theorem State.clearRx_ctl :
    (s.clearRx).ctl = s.ctl := rfl
@[simp] theorem State.clearRx_irq :
    (s.clearRx).irq = s.irq := rfl
@[simp] theorem State.clearRx_dev :
    (s.clearRx).dev = s.dev := rfl
@[simp] theorem State.clearRx_env :
    (s.clearRx).env = s.env := rfl

/-! `clearTx` -/

@[simp] theorem State.clearTx_engine :
    (s.clearTx).engine = { s.engine with txCursor := 0 } := rfl
@[simp] theorem State.clearTx_ctl :
    (s.clearTx).ctl = s.ctl := rfl
@[simp] theorem State.clearTx_irq :
    (s.clearTx).irq = s.irq := rfl
@[simp] theorem State.clearTx_dev :
    (s.clearTx).dev = s.dev := rfl
@[simp] theorem State.clearTx_env :
    (s.clearTx).env = s.env := rfl

/-! `setStaged` -/

@[simp] theorem State.setStaged_engine (b : Byte) :
    (s.setStaged b).engine = { s.engine with staged := b } := rfl
@[simp] theorem State.setStaged_ctl (b : Byte) :
    (s.setStaged b).ctl = s.ctl := rfl
@[simp] theorem State.setStaged_irq (b : Byte) :
    (s.setStaged b).irq = s.irq := rfl
@[simp] theorem State.setStaged_dev (b : Byte) :
    (s.setStaged b).dev = s.dev := rfl
@[simp] theorem State.setStaged_env (b : Byte) :
    (s.setStaged b).env = s.env := rfl

/-! `receive` -/

@[simp] theorem State.receive_engine (b : Byte) :
    (s.receive b).engine = s.engine.receive b := rfl
@[simp] theorem State.receive_ctl (b : Byte) :
    (s.receive b).ctl = s.ctl := rfl
@[simp] theorem State.receive_irq (b : Byte) :
    (s.receive b).irq = s.irq := rfl
@[simp] theorem State.receive_dev (b : Byte) :
    (s.receive b).dev = s.dev := rfl
@[simp] theorem State.receive_env (b : Byte) :
    (s.receive b).env = s.env := rfl

/-! `loadUid` -/

@[simp] theorem State.loadUid_engine :
    (s.loadUid).engine = { s.engine with txBuf := uidBuf } := rfl
@[simp] theorem State.loadUid_ctl :
    (s.loadUid).ctl = s.ctl := rfl
@[simp] theorem State.loadUid_irq :
    (s.loadUid).irq = s.irq := rfl
@[simp] theorem State.loadUid_dev :
    (s.loadUid).dev = s.dev := rfl
@[simp] theorem State.loadUid_env :
    (s.loadUid).env = s.env := rfl

/-! `setTxCursor` -/

@[simp] theorem State.setTxCursor_engine (c : Fin 4) :
    (s.setTxCursor c).engine = { s.engine with txCursor := c } := rfl
@[simp] theorem State.setTxCursor_ctl (c : Fin 4) :
    (s.setTxCursor c).ctl = s.ctl := rfl
@[simp] theorem State.setTxCursor_irq (c : Fin 4) :
    (s.setTxCursor c).irq = s.irq := rfl
@[simp] theorem State.setTxCursor_dev (c : Fin 4) :
    (s.setTxCursor c).dev = s.dev := rfl
@[simp] theorem State.setTxCursor_env (c : Fin 4) :
    (s.setTxCursor c).env = s.env := rfl

/-! `datWrite` -/

@[simp] theorem State.datWrite_engine (b : Byte) :
    (s.datWrite b).engine = s.engine := rfl
@[simp] theorem State.datWrite_ctl (b : Byte) :
    (s.datWrite b).ctl = { s.ctl with data := b } := rfl
@[simp] theorem State.datWrite_irq (b : Byte) :
    (s.datWrite b).irq = s.irq := rfl
@[simp] theorem State.datWrite_dev (b : Byte) :
    (s.datWrite b).dev = s.dev := rfl
@[simp] theorem State.datWrite_env (b : Byte) :
    (s.datWrite b).env = { s.env with calls := s.env.calls ++ [.datWrite b] } := rfl

/-! `settingsSet` -/

@[simp] theorem State.settingsSet_engine (id : Nat) (v : Byte) :
    (s.settingsSet id v).engine = s.engine := rfl
@[simp] theorem State.settingsSet_ctl (id : Nat) (v : Byte) :
    (s.settingsSet id v).ctl = s.ctl := rfl
@[simp] theorem State.settingsSet_irq (id : Nat) (v : Byte) :
    (s.settingsSet id v).irq = s.irq := rfl
@[simp] theorem State.settingsSet_dev (id : Nat) (v : Byte) :
    (s.settingsSet id v).dev = { s.dev with settings := settingPut s.dev.settings id v } := rfl
@[simp] theorem State.settingsSet_env (id : Nat) (v : Byte) :
    (s.settingsSet id v).env = { s.env with calls := s.env.calls ++ [.settingsSet id v] } := rfl

/-! `sendOrientation` -/

@[simp] theorem State.sendOrientation_engine (v : Byte) :
    (s.sendOrientation v).engine = s.engine := rfl
@[simp] theorem State.sendOrientation_ctl (v : Byte) :
    (s.sendOrientation v).ctl = s.ctl := rfl
@[simp] theorem State.sendOrientation_irq (v : Byte) :
    (s.sendOrientation v).irq = s.irq := rfl
@[simp] theorem State.sendOrientation_dev (v : Byte) :
    (s.sendOrientation v).dev = { s.dev with orientationSent := some v } := rfl
@[simp] theorem State.sendOrientation_env (v : Byte) :
    (s.sendOrientation v).env =
      { s.env with calls := s.env.calls ++ [.displayOrientation v] } := rfl

/-! `sendEnable1` -/

@[simp] theorem State.sendEnable1_engine (v : Byte) :
    (s.sendEnable1 v).engine = s.engine := rfl
@[simp] theorem State.sendEnable1_ctl (v : Byte) :
    (s.sendEnable1 v).ctl = s.ctl := rfl
@[simp] theorem State.sendEnable1_irq (v : Byte) :
    (s.sendEnable1 v).irq = s.irq := rfl
@[simp] theorem State.sendEnable1_dev (v : Byte) :
    (s.sendEnable1 v).dev = { s.dev with enable1Sent := some v } := rfl
@[simp] theorem State.sendEnable1_env (v : Byte) :
    (s.sendEnable1 v).env = { s.env with calls := s.env.calls ++ [.vrmEnableLine 1 v] } := rfl

/-! `sendEnable2` -/

@[simp] theorem State.sendEnable2_engine (v : Byte) :
    (s.sendEnable2 v).engine = s.engine := rfl
@[simp] theorem State.sendEnable2_ctl (v : Byte) :
    (s.sendEnable2 v).ctl = s.ctl := rfl
@[simp] theorem State.sendEnable2_irq (v : Byte) :
    (s.sendEnable2 v).irq = s.irq := rfl
@[simp] theorem State.sendEnable2_dev (v : Byte) :
    (s.sendEnable2 v).dev = { s.dev with enable2Sent := some v } := rfl
@[simp] theorem State.sendEnable2_env (v : Byte) :
    (s.sendEnable2 v).env = { s.env with calls := s.env.calls ++ [.vrmEnableLine 2 v] } := rfl

/-! `askedAdc` -/

@[simp] theorem State.askedAdc_engine (ch : Nat) :
    (s.askedAdc ch).engine = s.engine := rfl
@[simp] theorem State.askedAdc_ctl (ch : Nat) :
    (s.askedAdc ch).ctl = s.ctl := rfl
@[simp] theorem State.askedAdc_irq (ch : Nat) :
    (s.askedAdc ch).irq = s.irq := rfl
@[simp] theorem State.askedAdc_dev (ch : Nat) :
    (s.askedAdc ch).dev = s.dev := rfl
@[simp] theorem State.askedAdc_env (ch : Nat) :
    (s.askedAdc ch).env =
      { s.env with
          calls := s.env.calls ++ [.adcSample ch], adc := s.env.adc.tail,
          draws := s.env.draws + 1 } := rfl

/-! `askedVrmRead` -/

@[simp] theorem State.askedVrmRead_engine (c : Call) :
    (s.askedVrmRead c).engine = s.engine := rfl
@[simp] theorem State.askedVrmRead_ctl (c : Call) :
    (s.askedVrmRead c).ctl = s.ctl := rfl
@[simp] theorem State.askedVrmRead_irq (c : Call) :
    (s.askedVrmRead c).irq = s.irq := rfl
@[simp] theorem State.askedVrmRead_dev (c : Call) :
    (s.askedVrmRead c).dev = s.dev := rfl
@[simp] theorem State.askedVrmRead_env (c : Call) :
    (s.askedVrmRead c).env =
      { s.env with
          calls := s.env.calls ++ [c], vrmRead := s.env.vrmRead.tail,
          draws := s.env.draws + 1 } := rfl

/-! `askedVrmWrite` -/

@[simp] theorem State.askedVrmWrite_engine (reg v : Byte) :
    (s.askedVrmWrite reg v).engine = s.engine := rfl
@[simp] theorem State.askedVrmWrite_ctl (reg v : Byte) :
    (s.askedVrmWrite reg v).ctl = s.ctl := rfl
@[simp] theorem State.askedVrmWrite_irq (reg v : Byte) :
    (s.askedVrmWrite reg v).irq = s.irq := rfl
@[simp] theorem State.askedVrmWrite_dev (reg v : Byte) :
    (s.askedVrmWrite reg v).dev = s.dev := rfl
@[simp] theorem State.askedVrmWrite_env (reg v : Byte) :
    (s.askedVrmWrite reg v).env =
      { s.env with
          calls := s.env.calls ++ [.vrmWriteU8 reg v], vrmWrite := s.env.vrmWrite.tail,
          draws := s.env.draws + 1 } := rfl

/-! `askedTelem` -/

@[simp] theorem State.askedTelem_engine :
    (s.askedTelem).engine = s.engine := rfl
@[simp] theorem State.askedTelem_ctl :
    (s.askedTelem).ctl = s.ctl := rfl
@[simp] theorem State.askedTelem_irq :
    (s.askedTelem).irq = s.irq := rfl
@[simp] theorem State.askedTelem_dev :
    (s.askedTelem).dev = s.dev := rfl
@[simp] theorem State.askedTelem_env :
    (s.askedTelem).env =
      { s.env with
          telemFx := s.env.telemFx.tail, draws := s.env.draws + 1 } := rfl

/-! `enterHandler` -/

@[simp] theorem State.enterHandler_engine (src : Source) :
    (s.enterHandler src).engine = s.engine := rfl
@[simp] theorem State.enterHandler_ctl (src : Source) :
    (s.enterHandler src).ctl = s.ctl := rfl
@[simp] theorem State.enterHandler_irq (src : Source) :
    (s.enterHandler src).irq = { s.irq.acknowledge src with irqMask := true } := rfl
@[simp] theorem State.enterHandler_dev (src : Source) :
    (s.enterHandler src).dev = s.dev := rfl
@[simp] theorem State.enterHandler_env (src : Source) :
    (s.enterHandler src).env = { s.env with calls := [] } := rfl

/-! `leaveHandler` -/

@[simp] theorem State.leaveHandler_engine :
    (s.leaveHandler).engine = s.engine := rfl
@[simp] theorem State.leaveHandler_ctl :
    (s.leaveHandler).ctl = s.ctl := rfl
@[simp] theorem State.leaveHandler_irq :
    (s.leaveHandler).irq = { s.irq with irqMask := false } := rfl
@[simp] theorem State.leaveHandler_dev :
    (s.leaveHandler).dev = s.dev := rfl
@[simp] theorem State.leaveHandler_env :
    (s.leaveHandler).env = s.env := rfl

/-! `unmaskInterrupts` -/

@[simp] theorem State.unmaskInterrupts_engine :
    (s.unmaskInterrupts).engine = s.engine := rfl
@[simp] theorem State.unmaskInterrupts_ctl :
    (s.unmaskInterrupts).ctl = s.ctl := rfl
@[simp] theorem State.unmaskInterrupts_irq :
    (s.unmaskInterrupts).irq = { s.irq with irqMask := false } := rfl
@[simp] theorem State.unmaskInterrupts_dev :
    (s.unmaskInterrupts).dev = s.dev := rfl
@[simp] theorem State.unmaskInterrupts_env :
    (s.unmaskInterrupts).env = s.env := rfl

/-! `present` -/

@[simp] theorem State.present_engine (st dat : Byte) :
    (s.present st dat).engine = s.engine := rfl
@[simp] theorem State.present_ctl (st dat : Byte) :
    (s.present st dat).ctl =
      { s.ctl with intFlag := true, status := st, data := dat } := rfl
@[simp] theorem State.present_irq (st dat : Byte) :
    (s.present st dat).irq = { s.irq with pendingI2c := true, i2cEvent := some (st, dat) } := rfl
@[simp] theorem State.present_dev (st dat : Byte) :
    (s.present st dat).dev = s.dev := rfl
@[simp] theorem State.present_env (st dat : Byte) :
    (s.present st dat).env = s.env := rfl

/-! `initPeripherals` -/

@[simp] theorem State.initPeripherals_engine :
    (s.initPeripherals).engine = s.engine := rfl
@[simp] theorem State.initPeripherals_ctl :
    (s.initPeripherals).ctl =
      { s.ctl with
          enabled := true, ackEnable := true, start := false, intFlag := false,
          ownAddrs := [Config.addrEpower, Config.addrPmic] } := rfl
@[simp] theorem State.initPeripherals_irq :
    (s.initPeripherals).irq = s.irq := rfl
@[simp] theorem State.initPeripherals_dev :
    (s.initPeripherals).dev = s.dev := rfl
@[simp] theorem State.initPeripherals_env :
    (s.initPeripherals).env = s.env := rfl

/-! `setStartup` -/

@[simp] theorem State.setStartup_engine (p : Startup) :
    (s.setStartup p).engine = s.engine := rfl
@[simp] theorem State.setStartup_ctl (p : Startup) :
    (s.setStartup p).ctl = s.ctl := rfl
@[simp] theorem State.setStartup_irq (p : Startup) :
    (s.setStartup p).irq = s.irq := rfl
@[simp] theorem State.setStartup_dev (p : Startup) :
    (s.setStartup p).dev = s.dev := rfl
@[simp] theorem State.setStartup_env (p : Startup) :
    (s.setStartup p).env = { s.env with startup := p } := rfl

/-! `latch` -/

@[simp] theorem State.latch_engine (src : Source) :
    (s.latch src).engine = s.engine := rfl
@[simp] theorem State.latch_ctl (src : Source) :
    (s.latch src).ctl = s.ctl := rfl
@[simp] theorem State.latch_irq (src : Source) :
    (s.latch src).irq = s.irq.latch src := rfl
@[simp] theorem State.latch_dev (src : Source) :
    (s.latch src).dev = s.dev := rfl
@[simp] theorem State.latch_env (src : Source) :
    (s.latch src).env = s.env := rfl

/-! `ackEnable` -/

@[simp] theorem State.ackEnable_engine :
    (s.ackEnable).engine = s.engine := rfl
@[simp] theorem State.ackEnable_ctl :
    (s.ackEnable).ctl = { s.ctl with ackEnable := true } := rfl
@[simp] theorem State.ackEnable_irq :
    (s.ackEnable).irq = s.irq := rfl
@[simp] theorem State.ackEnable_dev :
    (s.ackEnable).dev = s.dev := rfl
@[simp] theorem State.ackEnable_env :
    (s.ackEnable).env = { s.env with calls := s.env.calls ++ [.ctlAckEnable] } := rfl

/-! `startSet` -/

@[simp] theorem State.startSet_engine :
    (s.startSet).engine = s.engine := rfl
@[simp] theorem State.startSet_ctl :
    (s.startSet).ctl = { s.ctl with start := true } := rfl
@[simp] theorem State.startSet_irq :
    (s.startSet).irq = s.irq := rfl
@[simp] theorem State.startSet_dev :
    (s.startSet).dev = s.dev := rfl
@[simp] theorem State.startSet_env :
    (s.startSet).env = { s.env with calls := s.env.calls ++ [.ctlStartSet] } := rfl

/-! `flagClear` -/

@[simp] theorem State.flagClear_engine :
    (s.flagClear).engine = s.engine := rfl
@[simp] theorem State.flagClear_ctl :
    (s.flagClear).ctl = { s.ctl with intFlag := false } := rfl
@[simp] theorem State.flagClear_irq :
    (s.flagClear).irq = s.irq := rfl
@[simp] theorem State.flagClear_dev :
    (s.flagClear).dev = s.dev := rfl
@[simp] theorem State.flagClear_env :
    (s.flagClear).env = { s.env with calls := s.env.calls ++ [.ctlFlagClear] } := rfl

end Sys2Proof.Machine
end

