-- ==== Sys2Proof/Laws/Memory.lean ====
section
/-! SUPPORT. The settings space: what a read sees after a write, and that every operation on it keeps
the canonical form. -/

namespace Sys2Proof.Machine

/-! ### Reading -/

@[simp] theorem Memory.read_nil (a : Nat) : Memory.read [] a = Memory.initial a := rfl

/-- An address listed nowhere reads as its initial content. -/
theorem Memory.read_of_not_listed {m : Memory} {a : Nat} (h : ∀ c ∈ m, c.1 ≠ a) :
    Memory.read m a = Memory.initial a := by
  induction m with
  | nil => rfl
  | cons c m ih =>
    obtain ⟨b, w⟩ := c
    have hb : b ≠ a := h (b, w) (by simp)
    simp only [Memory.read, if_neg hb]
    exact ih fun c hc => h c (List.mem_cons_of_mem _ hc)

theorem Memory.read_insert_same (m : Memory) (a : Nat) (v : Byte) :
    Memory.read (Memory.insert m a v) a = v := by
  induction m with
  | nil => simp [Memory.insert, Memory.read]
  | cons c m ih =>
    obtain ⟨b, w⟩ := c
    simp only [Memory.insert]
    split_ifs with h1 h2
    · simp [Memory.read]
    · simp [Memory.read]
    · simp [Memory.read, Ne.symm h2, ih]

theorem Memory.read_insert_other (m : Memory) {a x : Nat} (v : Byte) (h : x ≠ a) :
    Memory.read (Memory.insert m a v) x = Memory.read m x := by
  induction m with
  | nil => simp [Memory.insert, Memory.read, Ne.symm h]
  | cons c m ih =>
    obtain ⟨b, w⟩ := c
    simp only [Memory.insert]
    split_ifs with h1 h2
    · simp [Memory.read, Ne.symm h]
    · subst h2
      simp [Memory.read, Ne.symm h]
    · simp [Memory.read, ih]

theorem Memory.read_erase_same (m : Memory) (a : Nat) :
    Memory.read (Memory.erase m a) a = Memory.initial a :=
  Memory.read_of_not_listed fun c hc => by simpa [Memory.erase] using (List.mem_filter.1 hc).2

theorem Memory.read_erase_other (m : Memory) {a x : Nat} (h : x ≠ a) :
    Memory.read (Memory.erase m a) x = Memory.read m x := by
  induction m with
  | nil => rfl
  | cons c m ih =>
    obtain ⟨b, w⟩ := c
    by_cases hb : b = a
    · subst hb
      simpa [Memory.erase, Memory.read, Ne.symm h] using ih
    · simp only [Memory.erase, ne_eq, decide_not] at ih
      simp [Memory.erase, Memory.read, hb, ih]

/-- A read after a write to the same address gives the byte written. -/
@[simp] theorem Memory.read_write_same (m : Memory) (a : Nat) (v : Byte) :
    Memory.read (Memory.write m a v) a = v := by
  unfold Memory.write
  split_ifs with h
  · rw [Memory.read_erase_same, h]
  · exact Memory.read_insert_same m a v

/-- A write leaves every other address alone. -/
theorem Memory.read_write_other (m : Memory) {a x : Nat} (v : Byte) (h : x ≠ a) :
    Memory.read (Memory.write m a v) x = Memory.read m x := by
  unfold Memory.write
  split_ifs
  · exact Memory.read_erase_other m h
  · exact Memory.read_insert_other m v h

/-! ### The canonical form -/

theorem Memory.wf_nil : Memory.wf [] := ⟨List.Pairwise.nil, by simp⟩

theorem Memory.mem_insert {m : Memory} {a : Nat} {v : Byte} {c : Host.Cell}
    (h : c ∈ Memory.insert m a v) : c = (a, v) ∨ c ∈ m := by
  induction m with
  | nil => simpa [Memory.insert] using h
  | cons d m ih =>
    obtain ⟨b, w⟩ := d
    simp only [Memory.insert] at h
    split_ifs at h with h1 h2
    · simpa using h
    · rcases List.mem_cons.1 h with h | h
      · exact .inl h
      · exact .inr (List.mem_cons_of_mem _ h)
    · rcases List.mem_cons.1 h with h | h
      · exact .inr (h ▸ List.mem_cons_self)
      · exact (ih h).imp_right (List.mem_cons_of_mem _)

theorem Memory.insert_rising {m : Memory} (a : Nat) (v : Byte)
    (h : m.Pairwise fun c d => c.1 < d.1) :
    (Memory.insert m a v).Pairwise fun c d => c.1 < d.1 := by
  induction m with
  | nil => simp [Memory.insert]
  | cons d m ih =>
    obtain ⟨b, w⟩ := d
    obtain ⟨hd, hm⟩ := List.pairwise_cons.1 h
    simp only [Memory.insert]
    split_ifs with h1 h2
    · refine List.pairwise_cons.2 ⟨fun c hc => ?_, h⟩
      rcases List.mem_cons.1 hc with rfl | hc
      · exact h1
      · exact Nat.lt_trans h1 (hd c hc)
    · subst h2
      exact List.pairwise_cons.2 ⟨hd, hm⟩
    · refine List.pairwise_cons.2 ⟨fun c hc => ?_, ih hm⟩
      rcases Memory.mem_insert hc with rfl | hc
      · exact Nat.lt_of_le_of_ne (Nat.le_of_not_lt h1) (Ne.symm h2)
      · exact hd c hc

theorem Memory.wf_insert {m : Memory} {a : Nat} {v : Byte} (h : Memory.wf m) (ha : a < 7)
    (hv : v ≠ Memory.initial a) : Memory.wf (Memory.insert m a v) :=
  ⟨Memory.insert_rising a v h.1, fun c hc => by
    rcases Memory.mem_insert hc with rfl | hc
    · exact ⟨ha, hv⟩
    · exact h.2 c hc⟩

theorem Memory.wf_erase {m : Memory} (a : Nat) (h : Memory.wf m) : Memory.wf (Memory.erase m a) :=
  ⟨h.1.filter _, fun c hc => h.2 c (List.mem_filter.1 hc).1⟩

theorem Memory.wf_write {m : Memory} {a : Nat} (v : Byte) (h : Memory.wf m) (ha : a < 7) :
    Memory.wf (Memory.write m a v) := by
  unfold Memory.write
  split_ifs with hv
  · exact Memory.wf_erase a h
  · exact Memory.wf_insert h ha hv

/-- A `set` keeps the canonical form, for every id. -/
theorem settingPut_wf {m : Memory} (id : Nat) (v : Byte) (h : Memory.wf m) :
    Memory.wf (settingPut m id v) := by
  unfold settingPut
  split_ifs with hid
  · exact Memory.wf_write v h hid
  · exact h

/-- A list of stores keeps the canonical form. -/
theorem settingsAfter_wf {m : Memory} (ws : List (Nat × Byte)) (h : Memory.wf m) :
    Memory.wf (settingsAfter m ws) := by
  induction ws generalizing m with
  | nil => exact h
  | cons w ws ih => exact ih (settingPut_wf w.1 w.2 h)

/-! ### The store's contract (R56) -/

theorem settingAt_put_same (m : Memory) {id : Nat} (v : Byte) (h : id < 7) :
    settingAt (settingPut m id v) id = v := by
  simp [settingAt, settingPut, h]

theorem settingAt_put_other (m : Memory) {id x : Nat} (v : Byte) (h : x ≠ id) :
    settingAt (settingPut m id v) x = settingAt m x := by
  unfold settingAt settingPut
  split_ifs
  · exact Memory.read_write_other m v h
  all_goals rfl

theorem settingAt_unrecognized (m : Memory) {id : Nat} (h : 7 ≤ id) : settingAt m id = 0#8 := by
  simp [settingAt, Nat.not_lt.2 h]

theorem settingPut_unrecognized (m : Memory) {id : Nat} (v : Byte) (h : 7 ≤ id) :
    settingPut m id v = m := by
  simp [settingPut, Nat.not_lt.2 h]

end Sys2Proof.Machine
end

