-- ==== Sys2Proof/Laws/Ops.lean ====
section
/-! SUPPORT. What the shared operations do, once each: stopping and going on, the end of an event, the
entry into a handler, and what every engine operation keeps. -/

namespace Sys2Proof.Machine

variable {s t : State}

/-- Two states with the same parts are the same. -/
theorem State.eq_of_parts (h1 : s.engine = t.engine) (h2 : s.ctl = t.ctl) (h3 : s.irq = t.irq)
    (h4 : s.dev = t.dev) (h5 : s.env = t.env) : s = t := by
  cases s; cases t; simp_all

/-! ### Stopping and going on -/

theorem ifRunning_running (h : s.irq.run = .running) (o : Host.Outcome State Fault Refusal) :
    ifRunning s o = o := by
  simp [ifRunning, h]

theorem ifRunning_wedged (h : s.irq.run = .wedged) (o : Host.Outcome State Fault Refusal) :
    ifRunning s o = .fault .wedged := by
  simp [ifRunning, h]

theorem ifRunning_fatal (h : s.irq.run = .fatal) (o : Host.Outcome State Fault Refusal) :
    ifRunning s o = .fault .fatalAlreadyInitialized := by
  simp [ifRunning, h]

theorem ifRunning_eq_next {o : Host.Outcome State Fault Refusal} :
    ifRunning s o = .next t ↔ s.irq.run = .running ∧ o = .next t := by
  cases h : s.irq.run <;> simp [ifRunning, h]

theorem State.andThen_running (h : s.irq.run = .running) (k : State → State) :
    s.andThen k = k s := if_pos h

theorem State.andThen_stopped (h : s.irq.run ≠ .running) (k : State → State) :
    s.andThen k = s := if_neg h

theorem Dispatcher.enables_iff {d : Dispatcher} {src : Source} :
    d.enables src = true ↔ d.ctxInstalled = true ∧ d.irqMask = false ∧ d.isPending src = true := by
  simp [Dispatcher.enables, and_assoc]

/-- Where a dispatch gives a next state, it was enabled, and that state is the action's, with the
mask released if the action came to its end. -/
theorem runHandler_eq_next {src : Source} {action : State → State} :
    runHandler src action s = .next t ↔ s.irq.run = .running ∧ s.irq.enables src = true ∧
      t = (action (s.enterHandler src)).andThen State.leaveHandler := by
  unfold runHandler
  rw [ifRunning_eq_next]
  split_ifs with h <;> simp [h, eq_comm]

theorem runHandler_enabled {src : Source} (hr : s.irq.run = .running)
    (he : s.irq.enables src = true) (action : State → State) :
    runHandler src action s =
      .next ((action (s.enterHandler src)).andThen State.leaveHandler) :=
  runHandler_eq_next.2 ⟨hr, he, rfl⟩

/-! ### The end of an event -/

@[simp] theorem State.finish_engine : s.finish.engine = s.engine := rfl
@[simp] theorem State.finish_ctl :
    s.finish.ctl = { s.ctl with ackEnable := true, intFlag := false } := rfl
@[simp] theorem State.finish_irq : s.finish.irq = s.irq := rfl
@[simp] theorem State.finish_dev : s.finish.dev = s.dev := rfl
@[simp] theorem State.finish_env :
    s.finish.env = { s.env with calls := s.env.calls ++ [.ctlAckEnable, .ctlFlagClear] } := by
  simp [State.finish]

theorem wroteByte_iff {cs : List Call} : wroteByte cs = true ↔ ∃ b, Call.datWrite b ∈ cs := by
  induction cs with
  | nil => simp [wroteByte]
  | cons c cs ih => cases c <;> simp [wroteByte, ih]

@[simp] theorem State.finishTransmit_engine : s.finishTransmit.engine = s.engine := by
  unfold State.finishTransmit State.hostClocksByte
  split_ifs <;> rfl

@[simp] theorem State.finishTransmit_enabled :
    s.finishTransmit.ctl.enabled = s.ctl.enabled := by
  unfold State.finishTransmit State.hostClocksByte
  split_ifs <;> rfl

@[simp] theorem State.finishTransmit_ackEnable :
    s.finishTransmit.ctl.ackEnable = true := by
  unfold State.finishTransmit State.hostClocksByte
  split_ifs <;> rfl

@[simp] theorem State.finishTransmit_start :
    s.finishTransmit.ctl.start = s.ctl.start := by
  unfold State.finishTransmit State.hostClocksByte
  split_ifs <;> rfl

@[simp] theorem State.finishTransmit_intFlag :
    s.finishTransmit.ctl.intFlag = false := by
  unfold State.finishTransmit State.hostClocksByte
  split_ifs <;> rfl

@[simp] theorem State.finishTransmit_status :
    s.finishTransmit.ctl.status = s.ctl.status := by
  unfold State.finishTransmit State.hostClocksByte
  split_ifs <;> rfl

@[simp] theorem State.finishTransmit_ownAddrs :
    s.finishTransmit.ctl.ownAddrs = s.ctl.ownAddrs := by
  unfold State.finishTransmit State.hostClocksByte
  split_ifs <;> rfl

@[simp] theorem State.finishTransmit_irq : s.finishTransmit.irq = s.irq := by
  unfold State.finishTransmit State.hostClocksByte
  split_ifs <;> rfl

@[simp] theorem State.finishTransmit_dev : s.finishTransmit.dev = s.dev := by
  unfold State.finishTransmit State.hostClocksByte
  split_ifs <;> rfl

theorem wroteByte_append_finish (cs : List Call) :
    wroteByte (cs ++ [.ctlAckEnable, .ctlFlagClear]) = wroteByte cs := by
  induction cs with
  | nil => rfl
  | cons c cs ih => cases c <;> simp [wroteByte, ih]

/-- The bus master clocks in the data register where the event wrote it. -/
theorem State.finishTransmit_env_of_wrote (h : wroteByte s.env.calls = true) :
    s.finishTransmit.env =
      { s.env with
        calls := s.env.calls ++ [.ctlAckEnable, .ctlFlagClear], hostByte := some s.ctl.data } := by
  simp [State.finishTransmit, State.hostClocksByte, wroteByte_append_finish, h]

theorem State.finishTransmit_ctl_of_wrote (h : wroteByte s.env.calls = true) :
    s.finishTransmit.ctl = { s.ctl with ackEnable := true, intFlag := false } := by
  simp [State.finishTransmit, State.hostClocksByte, wroteByte_append_finish, h]

/-- The data register holds the draw where the event wrote nothing. -/
theorem State.finishTransmit_ctl_of_silent (h : wroteByte s.env.calls = false) :
    s.finishTransmit.ctl =
      { s.ctl with
        ackEnable := true, intFlag := false, data := Config.drawU8 s.env.draws } := by
  simp [State.finishTransmit, State.hostClocksByte, State.freeByte, wroteByte_append_finish, h]

/-- The bus master clocks in a draw where the event wrote nothing. -/
theorem State.finishTransmit_env_of_silent (h : wroteByte s.env.calls = false) :
    s.finishTransmit.env =
      { s.env with
        calls := s.env.calls ++ [.ctlAckEnable, .ctlFlagClear]
        hostByte := some (Config.drawU8 s.env.draws), draws := s.env.draws + 1 } := by
  simp [State.finishTransmit, State.hostClocksByte, State.freeByte, wroteByte_append_finish, h]

/-- The end of an event whose last call wrote its response byte. -/
theorem State.finishTransmit_responded {e : Engine} {cs : List Call} {b : Byte}
    (h1 : t.engine = e) (h2 : t.ctl = { s.ctl with data := b }) (h3 : t.irq = s.irq)
    (h4 : t.dev = s.dev) (h5 : t.env = { s.env with calls := cs ++ [.datWrite b] }) :
    t.finishTransmit = s.responded e cs b := by
  have hw : wroteByte t.env.calls = true := wroteByte_iff.2 ⟨b, by simp [h5]⟩
  apply State.eq_of_parts
  · simp [State.responded, h1]
  · rw [State.finishTransmit_ctl_of_wrote hw]
    simp [State.responded, h2]
  · simp [State.responded, h3]
  · simp [State.responded, h4]
  · rw [State.finishTransmit_env_of_wrote hw]
    simp [State.responded, h5, h2]

/-- The end of an event that wrote no byte. -/
theorem State.finishTransmit_unanswered {e : Engine} {cs : List Call}
    (hw : wroteByte cs = false) (h1 : t.engine = e) (h2 : t.ctl = s.ctl) (h3 : t.irq = s.irq)
    (h4 : t.dev = s.dev) (h5 : t.env = { s.env with calls := cs }) :
    t.finishTransmit = s.unanswered e cs := by
  have hs : wroteByte t.env.calls = false := by rw [h5]; exact hw
  apply State.eq_of_parts
  · simp [State.unanswered, h1]
  · rw [State.finishTransmit_ctl_of_silent hs]
    simp [State.unanswered, h2, h5]
  · simp [State.unanswered, h3]
  · simp [State.unanswered, h4]
  · rw [State.finishTransmit_env_of_silent hs]
    simp [State.unanswered, h5]

/-- The end of an event in a state that is neither of the two. -/
theorem State.finish_finished (s : State) : s.finish = s.finished s.engine s.env.calls :=
  State.eq_of_parts rfl rfl rfl rfl (by simp [State.finished])

@[simp] theorem State.finishTransmit_startup :
    s.finishTransmit.env.startup = s.env.startup := by
  unfold State.finishTransmit State.hostClocksByte
  split_ifs <;> rfl

@[simp] theorem State.finishTransmit_schedule :
    s.finishTransmit.env.schedule = s.env.schedule := by
  unfold State.finishTransmit State.hostClocksByte
  split_ifs <;> rfl

/-! ### What the engine's operations leave of the dispatcher's registers -/

@[simp] theorem sideChannel_irq (id : Nat) (v : Byte) : (sideChannel id v s).irq = s.irq := by
  unfold sideChannel
  split_ifs <;> rfl

@[simp] theorem writeSetting_irq (id : Nat) (v : Byte) : (writeSetting id v s).irq = s.irq :=
  sideChannel_irq id v

/-- The store after a setting write: the side channels do not touch it (R149). -/
@[simp] theorem writeSetting_settings (id : Nat) (v : Byte) :
    (writeSetting id v s).dev.settings = settingPut s.dev.settings id v := by
  unfold writeSetting sideChannel
  split_ifs <;> rfl

/-- A settings commit never wedges (R56: the store answers). -/
@[simp] theorem epowerCommit_irq (c v : Byte) : (epowerCommit c v s).irq = s.irq := by
  unfold epowerCommit
  split_ifs
  · exact writeSetting_irq _ v
  · rfl

/-- The queued byte, while some are left (R118). -/
theorem sendQueued_of_ne (h : s.engine.txCursor ≠ 0) :
    sendQueued s = (s.setTxCursor s.engine.txDown).datWrite s.engine.nextTx := if_neg h

/-- The staged byte, when none is left (R118). -/
theorem sendQueued_of_zero (h : s.engine.txCursor = 0) :
    sendQueued s = s.datWrite s.engine.staged := if_pos h

theorem Engine.txDown_eq (e : Engine) (h : e.txCursor ≠ 0) : e.txDown = e.txCursor - 1 := by
  have down : ∀ c : Fin 4, c ≠ 0 → (c - 1).val = c.val - 1 := by decide
  exact Fin.ext (down _ h).symm

theorem Engine.nextTx_eq (e : Engine) (h : e.txCursor ≠ 0) :
    e.nextTx = e.txBuf[e.txCursor - 1] := by
  have hc : e.txCursor.val - 1 = (e.txCursor - 1).val :=
    congrArg Fin.val (Engine.txDown_eq e h)
  unfold Engine.nextTx
  simp only [hc]
  rfl

/-! ### What every engine operation keeps -/

/-- What the operations of the engine, the multiplexer and the bridge keep: of the dispatcher's
registers only the run status changes, and only to `Wedged`; the startup, the schedule and the
interface stay; the settings keep their form and a queued identifier stays one. -/
structure Keeps (s t : State) : Prop where
  enabled : t.ctl.enabled = s.ctl.enabled
  startup : t.env.startup = s.env.startup
  schedule : t.env.schedule = s.env.schedule
  irq : t.irq = s.irq ∨ t.irq = { s.irq with run := .wedged }
  settings : Memory.wf s.dev.settings → Memory.wf t.dev.settings
  uid : s.engine.UidQueued → t.engine.UidQueued

theorem Keeps.refl (s : State) : Keeps s s := ⟨rfl, rfl, rfl, .inl rfl, id, id⟩

theorem Keeps.trans {u : State} (h : Keeps s t) (k : Keeps t u) : Keeps s u where
  enabled := k.enabled.trans h.enabled
  startup := k.startup.trans h.startup
  schedule := k.schedule.trans h.schedule
  irq := by
    rcases h.irq with h | h <;> rcases k.irq with k | k <;> simp [h, k]
  settings := k.settings ∘ h.settings
  uid := k.uid ∘ h.uid

theorem Keeps.andThen {k : State → State} (h : Keeps s t) (hk : ∀ u, Keeps u (k u)) :
    Keeps s (t.andThen k) := by
  unfold State.andThen
  split_ifs
  · exact h.trans (hk t)
  · exact h

/-- An update of engine registers other than the send buffer and its cursor, of controller flags,
and of the model's record keeps all of it. -/
theorem Keeps.of_parts (hc : t.ctl.enabled = s.ctl.enabled) (hu : t.env.startup = s.env.startup)
    (hq : t.env.schedule = s.env.schedule) (hi : t.irq = s.irq) (hd : t.dev = s.dev)
    (hb : t.engine.txBuf = s.engine.txBuf) (hx : t.engine.txCursor = s.engine.txCursor) :
    Keeps s t :=
  ⟨hc, hu, hq, .inl hi, by rw [hd]; exact id, by
    simp only [Engine.UidQueued, hb, hx]; exact id⟩

theorem keeps_wedge (s : State) : Keeps s s.wedge :=
  ⟨rfl, rfl, rfl, .inr rfl, id, id⟩

theorem keeps_clearCalls (s : State) : Keeps s s.clearCalls :=
  .of_parts rfl rfl rfl rfl rfl rfl rfl

theorem keeps_tookDraw (s : State) : Keeps s s.tookDraw :=
  .of_parts rfl rfl rfl rfl rfl rfl rfl

theorem keeps_setMode (s : State) (m : Mode) : Keeps s (s.setMode m) :=
  .of_parts rfl rfl rfl rfl rfl rfl rfl

theorem keeps_clearRx (s : State) : Keeps s s.clearRx :=
  .of_parts rfl rfl rfl rfl rfl rfl rfl

theorem keeps_setStaged (s : State) (b : Byte) : Keeps s (s.setStaged b) :=
  .of_parts rfl rfl rfl rfl rfl rfl rfl

theorem keeps_datWrite (s : State) (b : Byte) : Keeps s (s.datWrite b) :=
  .of_parts rfl rfl rfl rfl rfl rfl rfl

theorem keeps_record (s : State) (c : Call) : Keeps s (s.record c) :=
  .of_parts rfl rfl rfl rfl rfl rfl rfl

theorem keeps_startSet (s : State) : Keeps s s.startSet :=
  .of_parts rfl rfl rfl rfl rfl rfl rfl

theorem keeps_finish (s : State) : Keeps s s.finish :=
  .of_parts rfl rfl rfl rfl rfl rfl rfl

theorem keeps_finishTransmit (s : State) : Keeps s s.finishTransmit :=
  .of_parts (by simp) (by simp) (by simp) (by simp) (by simp) (by simp) (by simp)

theorem keeps_receive (s : State) (b : Byte) : Keeps s (s.receive b) := by
  refine .of_parts rfl rfl rfl rfl rfl ?_ ?_ <;>
  · simp only [State.receive_engine, Engine.receive]
    split_ifs <;> rfl

theorem keeps_clearTx (s : State) : Keeps s s.clearTx :=
  ⟨rfl, rfl, rfl, .inl rfl, id, fun _ h => absurd rfl h⟩

theorem keeps_settingsSet (s : State) (id : Nat) (v : Byte) : Keeps s (s.settingsSet id v) :=
  ⟨rfl, rfl, rfl, .inl rfl, settingPut_wf id v, fun h => h⟩

theorem keeps_sideChannel (id : Nat) (v : Byte) (s : State) : Keeps s (sideChannel id v s) := by
  unfold sideChannel
  split_ifs <;> exact ⟨rfl, rfl, rfl, .inl rfl, fun h => h, fun h => h⟩

/-! ### The reads, the writes and the bridge -/

theorem keeps_readUid (s : State) : Keeps s (readUid s) :=
  ⟨rfl, rfl, rfl, .inl rfl, id, fun _ _ => rfl⟩

theorem keeps_askedAdc (s : State) (ch : Nat) : Keeps s (s.askedAdc ch) :=
  .of_parts rfl rfl rfl rfl rfl rfl rfl

theorem keeps_readChannel (ch : Nat) (s : State) : Keeps s (readChannel ch s) := by
  unfold readChannel State.adcSample
  cases s.adcAnswer ch with
  | sample v =>
    exact ((keeps_askedAdc s ch).trans (keeps_datWrite _ _)).trans (keeps_setStaged _ _)
  | hang => exact (keeps_askedAdc s ch).trans (keeps_wedge _)

theorem keeps_readMonitor (sel : Nat) (s : State) : Keeps s (readMonitor sel s) := by
  unfold readMonitor
  split
  · exact keeps_readChannel _ s
  · exact .refl s

theorem keeps_readSetting (id : Nat) (s : State) : Keeps s (readSetting id s) :=
  (keeps_record s (.settingsGet id)).trans (keeps_datWrite _ _)

theorem keeps_resolveRead (c : Byte) (s : State) : Keeps s (resolveRead c s) := by
  unfold resolveRead
  split_ifs
  · exact keeps_datWrite s _
  · exact keeps_readUid s
  · exact (keeps_tookDraw s).trans (keeps_datWrite _ _)
  · exact keeps_readSetting _ s
  · exact keeps_readMonitor _ s
  · exact keeps_datWrite s _

theorem keeps_writeSetting (id : Nat) (v : Byte) (s : State) : Keeps s (writeSetting id v s) :=
  (keeps_settingsSet s id v).trans (keeps_sideChannel id v _)

theorem keeps_epowerCommit (c v : Byte) (s : State) : Keeps s (epowerCommit c v s) := by
  unfold epowerCommit
  split_ifs
  · exact keeps_writeSetting _ v s
  · exact .refl s

theorem keeps_forwardRead (c : Call) (s : State) : Keeps s (s.forwardRead c) := by
  have h : Keeps s (s.askedVrmRead c) := .of_parts rfl rfl rfl rfl rfl rfl rfl
  unfold State.forwardRead
  cases s.vrmReadAnswer with
  | ok b => exact h.trans (keeps_datWrite _ b)
  | err => exact h
  | hang => exact h.trans (keeps_wedge _)

theorem keeps_vrmWriteU8 (reg v : Byte) (s : State) : Keeps s (s.vrmWriteU8 reg v) := by
  have h : Keeps s (s.askedVrmWrite reg v) := .of_parts rfl rfl rfl rfl rfl rfl rfl
  unfold State.vrmWriteU8
  cases s.vrmWriteAnswer with
  | ok => exact h
  | err => exact h
  | hang => exact h.trans (keeps_wedge _)

theorem keeps_passthroughFirst (s : State) : Keeps s (passthroughFirst s) := by
  unfold passthroughFirst
  split_ifs
  · exact keeps_datWrite s _
  · exact keeps_forwardRead _ s

/-! ### The events -/

theorem keeps_stopAction (s : State) : Keeps s (stopAction s) := by
  unfold stopAction
  cases s.engine.mode with
  | idle => exact .refl s
  | epowerRead => exact (keeps_clearRx s).trans (keeps_clearTx _)
  | passthroughRead => exact (keeps_clearRx s).trans (keeps_clearTx _)
  | epowerWrite =>
    dsimp only
    split_ifs
    · exact keeps_epowerCommit _ _ s
    · exact .refl s
  | passthroughWrite =>
    dsimp only
    split_ifs
    · exact keeps_vrmWriteU8 _ _ s
    · exact .refl s

theorem keeps_selectCommand {k : Byte → State → State} (hk : ∀ c u, Keeps u (k c u)) (s : State) :
    Keeps s (selectCommand s k) := by
  unfold selectCommand
  split_ifs
  · exact (keeps_tookDraw s).trans (hk _ _)
  · exact hk _ s

/-- The descending cursor is below the queue's length, so what is left stays queued. -/
theorem Engine.txDown_ne_zero {e : Engine} (h : e.txDown ≠ 0) : e.txCursor ≠ 0 := by
  intro hz
  apply h
  simp [Engine.txDown, hz]

theorem keeps_sendQueued (s : State) : Keeps s (sendQueued s) := by
  unfold sendQueued
  split_ifs
  · exact keeps_datWrite s _
  · exact ⟨rfl, rfl, rfl, .inl rfl, id, fun h hz => h (Engine.txDown_ne_zero hz)⟩

theorem keeps_eventSwa (dat : Byte) (s : State) : Keeps s (eventSwa dat s) :=
  (((keeps_clearCalls s).trans (keeps_setMode _ _)).trans (keeps_clearRx _)).trans (keeps_finish _)

theorem keeps_eventDra (dat : Byte) (s : State) : Keeps s (eventDra dat s) := by
  have h := keeps_clearCalls s
  unfold eventDra
  split
  · exact (h.trans (keeps_receive _ _)).trans (keeps_finish _)
  · exact (h.trans (keeps_receive _ _)).trans (keeps_finish _)
  · exact h.trans (keeps_finish _)
  · exact h.trans (keeps_finish _)
  · exact h.trans (keeps_finish _)

theorem keeps_eventSpr (s : State) : Keeps s (eventSpr s) :=
  Keeps.andThen ((keeps_clearCalls s).trans (keeps_stopAction _)) fun u =>
    (keeps_setMode u _).trans (keeps_finish _)

theorem keeps_eventSra (dat : Byte) (s : State) : Keeps s (eventSra dat s) := by
  have h : ∀ m, Keeps s (s.clearCalls.setMode m) := fun m =>
    (keeps_clearCalls s).trans (keeps_setMode _ m)
  unfold eventSra
  split
  · exact Keeps.andThen ((h _).trans (keeps_selectCommand keeps_resolveRead _))
      keeps_finishTransmit
  · exact Keeps.andThen ((h _).trans (keeps_passthroughFirst _)) keeps_finishTransmit
  · exact (h _).trans (keeps_finishTransmit _)

theorem keeps_eventDsa (s : State) : Keeps s (eventDsa s) := by
  have h := keeps_clearCalls s
  unfold eventDsa
  split
  · exact Keeps.andThen (h.trans (keeps_forwardRead _ _)) keeps_finishTransmit
  · exact (h.trans (keeps_sendQueued _)).trans (keeps_finishTransmit _)
  · exact (h.trans (keeps_datWrite _ _)).trans (keeps_finishTransmit _)
  · exact (h.trans (keeps_datWrite _ _)).trans (keeps_finishTransmit _)
  · exact (h.trans (keeps_datWrite _ _)).trans (keeps_finishTransmit _)

theorem keeps_eventDsn (s : State) : Keeps s (eventDsn s) :=
  (((keeps_clearCalls s).trans (keeps_clearRx _)).trans (keeps_clearTx _)).trans (keeps_finish _)

theorem keeps_eventOther (s : State) : Keeps s (eventOther s) :=
  ((keeps_clearCalls s).trans (keeps_startSet _)).trans (keeps_finish _)

/-- Every engine step keeps all of it. -/
theorem keeps_engineStep (cls : StatusClass) (dat : Byte) (s : State) :
    Keeps s (engineStep cls dat s) := by
  cases cls with
  | swa => exact keeps_eventSwa dat s
  | dra => exact keeps_eventDra dat s
  | spr => exact keeps_eventSpr s
  | sra => exact keeps_eventSra dat s
  | dsa => exact keeps_eventDsa s
  | dsn => exact keeps_eventDsn s
  | other => exact keeps_eventOther s

end Sys2Proof.Machine
end

