-- ==== Sys2Proof/Laws/Levels.lean ====
section
/-! SUPPORT. The three levels of the opcode table fit: running the row that a level decodes is running
that level's own operation (30_encoding.md R95, R99). -/

namespace Sys2Proof.Machine

variable {s : State}

/-- `c[5:0]` of a command of the settings band is its setting id (R86). -/
theorem extract_settingId {c : Byte} (h1 : 64 ≤ c.toNat) (h2 : c.toNat ≤ 127) :
    (c.extractLsb' 0 6).toNat = settingId c := by
  rw [BitVec.extractLsb'_toNat, Nat.shiftRight_zero, settingId]
  omega

/-- `c[6:0]` of a command of the monitoring band is its selector (R87). -/
theorem extract_selector {c : Byte} (h : 128 ≤ c.toNat) :
    (c.extractLsb' 0 7).toNat = selectorOf c := by
  have hlt := c.isLt
  have he : (c.extractLsb' 0 7).toNat = c.toNat % 128 := by
    simp [BitVec.extractLsb'_toNat]
  have hs : selectorOf c = c.toNat - 128 := rfl
  omega

/-- `ResolveRead` on a mapped monitoring command reads its selector's channel (R87, R145). -/
theorem resolveRead_monitor {c : Byte} (h1 : 128 ≤ c.toNat) (h2 : c.toNat ≤ 250) (s : State) :
    resolveRead c s = readMonitor (selectorOf c) s := by
  have h : ∀ n, n < 64 → c ≠ BitVec.ofNat 8 n := by
    rintro n hn rfl
    rw [BitVec.toNat_ofNat] at h1
    omega
  rw [resolveRead, if_neg (h 1 (by decide)), if_neg (h 2 (by decide)),
    if_neg (by omega), if_neg (by omega), if_pos h2]

/-- `ResolveRead` on a command of the settings band reads the setting (R86, R144). -/
theorem resolveRead_setting {c : Byte} (h1 : 64 ≤ c.toNat) (h2 : c.toNat ≤ 127) (s : State) :
    resolveRead c s = readSetting (settingId c) s := by
  have h : ∀ n, n < 64 → c ≠ BitVec.ofNat 8 n := by
    rintro n hn rfl
    rw [BitVec.toNat_ofNat] at h1
    omega
  rw [resolveRead, if_neg (h 1 (by decide)), if_neg (h 2 (by decide)), if_neg (by omega),
    if_pos h2]

/-- `ResolveRead` on a reserved command (R147). -/
theorem resolveRead_reserved {c : Byte} (h1 : 250 < c.toNat) (s : State) :
    resolveRead c s = readReserved s := by
  have h : ∀ n, n < 64 → c ≠ BitVec.ofNat 8 n := by
    rintro n hn rfl
    rw [BitVec.toNat_ofNat] at h1
    omega
  rw [resolveRead, if_neg (h 1 (by decide)), if_neg (h 2 (by decide)), if_neg (by omega),
    if_neg (by omega), if_neg (by omega)]

/-- R140: the CMD_READ row of a command does what `ResolveRead` does with it. -/
theorem exec_decodeRead (h : s.irq.run = .running) (c : Byte) :
    exec (decodeRead c) s = .next (resolveRead c s) := by
  have run : ∀ t, ifRunning s (.next t) = .next t := fun t => ifRunning_running h _
  have mon : ∀ sel, sel < 5 → c.toNat = 128 + sel → resolveRead c s = readMonitor sel s :=
    fun sel h1 h2 => by
      have e : selectorOf c = sel := Nat.sub_eq_of_eq_add' h2
      exact e ▸ resolveRead_monitor (by omega) (by omega) s
  apply decodeRead_elim (P := fun i => exec i s = .next (resolveRead c s)) c
  · rintro rfl; exact run _
  · rintro rfl; exact run _
  · rintro rfl; exact run _
  · intro h1 h2
    have h3 : c ≠ 1#8 := by rintro rfl; exact absurd h1 (by decide)
    have h4 : c ≠ 2#8 := by rintro rfl; exact absurd h1 (by decide)
    rw [resolveRead, if_neg h3, if_neg h4, if_pos h2]
    exact run _
  · intro h1 h2
    rw [resolveRead_setting h1 (by omega), ← extract_settingId h1 (by omega)]
    exact run _
  · intro h1 h2
    rw [resolveRead_setting (by omega) h2, ← extract_settingId (by omega) h2]
    exact run _
  · rintro rfl; rw [mon 0 (by decide) (by decide)]; exact run _
  · rintro rfl; rw [mon 1 (by decide) (by decide)]; exact run _
  · rintro rfl; rw [mon 2 (by decide) (by decide)]; exact run _
  · rintro rfl; rw [mon 3 (by decide) (by decide)]; exact run _
  · rintro rfl; rw [mon 4 (by decide) (by decide)]; exact run _
  · intro h1 h2
    rw [resolveRead_monitor (by omega) h2, ← extract_selector (by omega)]
    exact run _
  · intro h1
    rw [resolveRead_reserved (by omega)]
    exact run _

/-- R148: the CMD_WRITE row of a command does what `EpowerCommit` does with it. -/
theorem exec_decodeWrite (h : s.irq.run = .running) (c v : Byte) :
    exec (decodeWrite c v) s = .next (epowerCommit c v s) := by
  have run : ∀ t, ifRunning s (.next t) = .next t := fun t => ifRunning_running h _
  have set : 64 ≤ c.toNat → c.toNat ≤ 127 → epowerCommit c v s = writeSetting (settingId c) v s :=
    fun h1 h2 => if_pos ⟨h1, h2⟩
  have ign : ¬ (64 ≤ c.toNat ∧ c.toNat ≤ 127) → epowerCommit c v s = s := fun h => if_neg h
  apply decodeWrite_elim (P := fun i => exec i s = .next (epowerCommit c v s)) c v
  · intro h1
    rw [ign (by omega)]
    exact run _
  · intro h1 h2
    have hid : settingId c = (c.extractLsb' 0 2).toNat := by
      rw [BitVec.extractLsb'_toNat, Nat.shiftRight_zero, settingId]
      omega
    rw [set h1 (by omega), hid]
    exact run _
  · rintro rfl; rw [set (by decide) (by decide)]; exact run _
  · rintro rfl; rw [set (by decide) (by decide)]; exact run _
  · rintro rfl; rw [set (by decide) (by decide)]; exact run _
  · intro h1 h2
    rw [set (by omega) h2, ← extract_settingId (by omega) h2]
    exact run _
  · intro h1
    rw [ign (by omega)]
    exact run _

/-- R80, R193: the STATUS row of a status byte does what `EngineStep` does with its class. -/
theorem exec_decodeStatus (h : s.irq.run = .running) (status dat : Byte) :
    exec (decodeStatus status dat) s = .next (engineStep (classOf status) dat s) := by
  unfold decodeStatus
  cases classOf status <;> exact ifRunning_running h _

/-- R172: the bridge row of the latched bytes does what `PassthroughFirst` does. -/
theorem exec_decodePtFirst (h : s.irq.run = .running) :
    exec (decodePtFirst s.engine.latched) s = .next (passthroughFirst s) := by
  have hl : s.engine.latched = if s.engine.rxCursor = 0 then []
      else s.engine.rxBuf[0] :: (s.engine.rxBuf.toList.drop 1).take (s.engine.rxCursor.val - 1) := by
    obtain ⟨⟨⟨l⟩, hs⟩, hb⟩ : ∃ b : Vector Byte 8, s.engine.rxBuf = b := ⟨_, rfl⟩
    match l, hs with
    | b0 :: l, hs =>
      unfold Engine.latched
      rw [hb]
      split_ifs with hz
      · simp [hz]
      · obtain ⟨n, hn⟩ : ∃ n, s.engine.rxCursor.val = n + 1 :=
          Nat.exists_eq_succ_of_ne_zero fun h => hz (Fin.ext h)
        simp [hn]
  rw [hl]
  unfold passthroughFirst
  split_ifs
  · exact ifRunning_running h _
  · exact ifRunning_running h _

end Sys2Proof.Machine
end

