-- ==== Sys2Proof/Laws/Step.lean ====
section
/-! SUPPORT. Everything a step can do, said once: one case for each way that an agent's move gives a
next state (00_scope.md R8). -/

namespace Sys2Proof.Machine

variable {s t : State}

@[simp] theorem State.tookMove_engine : s.tookMove.engine = s.engine := by
  unfold State.tookMove; split <;> rfl
@[simp] theorem State.tookMove_ctl : s.tookMove.ctl = s.ctl := by
  unfold State.tookMove; split <;> rfl
@[simp] theorem State.tookMove_irq : s.tookMove.irq = s.irq := by
  unfold State.tookMove; split <;> rfl
@[simp] theorem State.tookMove_dev : s.tookMove.dev = s.dev := by
  unfold State.tookMove; split <;> rfl
@[simp] theorem State.tookMove_startup : s.tookMove.env.startup = s.env.startup := by
  unfold State.tookMove; split <;> rfl

/-- The ways a move gives a next state; `u` is the state with the move taken. -/
inductive Moved (m : Move) (u : State) : State → Prop
  /-- The move changes nothing: it was not enabled, or the startup code is done. -/
  | idle : Moved m u u
  /-- The startup code sets up the peripherals (R246 step 1). -/
  | peripherals : m = .startup → u.env.startup = .peripherals →
      Moved m u (u.initPeripherals.setStartup .install)
  /-- The startup code installs the context (R246 step 2). -/
  | install : m = .startup → u.env.startup = .install →
      Moved m u (installContext (u.setStartup .unmask))
  /-- The startup code unmasks interrupts (R246 step 3). -/
  | unmask : m = .startup → u.env.startup = .unmask → u.irq.ctxInstalled = true →
      Moved m u (u.setStartup .idle).unmaskInterrupts
  /-- The bus presents an event (R217). -/
  | present (status dat : Byte) : m = .bus status dat → u.busFree = true →
      Moved m u (u.present status dat)
  /-- A button that exists, or a timer, sets its pending bit (R218). -/
  | latch (src : Source) : src ≠ .i2c → (∀ k, src = .button k → k < Config.nButton) →
      (∀ src', m ≠ .dispatch src') → m ≠ .startup → Moved m u (u.latch src)
  /-- An enabled I2C dispatch (R193). -/
  | i2c (status dat : Byte) : m = .dispatch .i2c → u.irq.enables .i2c = true →
      u.irq.i2cEvent = some (status, dat) →
      Moved m u ((i2cAction status dat (u.enterHandler .i2c)).andThen State.leaveHandler)
  /-- An enabled button dispatch (R194). -/
  | button (k : Nat) : m = .dispatch (.button k) → u.irq.enables (.button k) = true →
      Moved m u (buttonAction k (u.enterHandler (.button k))).leaveHandler
  /-- An enabled display-timer dispatch (R195). -/
  | dispTimer : m = .dispatch .dispTimer → u.irq.enables .dispTimer = true →
      Moved m u (dispAction (u.enterHandler .dispTimer)).leaveHandler
  /-- An enabled telemetry-timer dispatch (R196). -/
  | telemTimer : m = .dispatch .telemTimer → u.irq.enables .telemTimer = true →
      Moved m u ((telemAction (u.enterHandler .telemTimer)).andThen State.leaveHandler)

theorem exec_irqI2c_of_event {status dat : Byte} (h : s.irq.i2cEvent = some (status, dat)) :
    exec .irqI2c s = runHandler .i2c (i2cAction status dat) s := by
  show execIrqI2c s = _
  unfold execIrqI2c
  rw [h]

theorem exec_irqI2c_of_none (h : s.irq.i2cEvent = none) : exec .irqI2c s ≠ .next t := by
  show execIrqI2c s ≠ _
  unfold execIrqI2c
  rw [h]
  intro hn
  obtain ⟨-, hn⟩ := ifRunning_eq_next.1 hn
  split_ifs at hn

/-- Inversion of one move. -/
theorem runMove_moved {m : Move} (h : runMove m s = .next t) : Moved m s t := by
  cases m with
  | startup =>
    have h' : startupMove s = .next t := h
    unfold startupMove at h'
    cases hu : s.env.startup <;> rw [hu] at h'
    · cases h'
      exact .peripherals rfl hu
    · obtain ⟨-, h'⟩ := ifRunning_eq_next.1 h'
      cases h'
      exact .install rfl hu
    · obtain ⟨-, h'⟩ := ifRunning_eq_next.1 h'
      by_cases hc : s.irq.ctxInstalled = true
      · rw [if_pos (by exact hc)] at h'
        cases h'
        exact .unmask rfl hu hc
      · rw [if_neg (by exact hc)] at h'
        cases h'
    · cases h'
      exact .idle
  | bus status dat =>
    have h' : (if s.busFree then s.present status dat else s) = t := Host.Outcome.next.inj h
    split_ifs at h' with hb
    · exact h' ▸ .present status dat rfl hb
    · exact h' ▸ .idle
  | buttonEdge k =>
    have h' : (if k < Config.nButton then s.latch (.button k) else s) = t :=
      Host.Outcome.next.inj h
    split_ifs at h' with hk
    · exact h' ▸ .latch (.button k) (by simp) (by rintro _ ⟨⟩; exact hk) (by simp) (by simp)
    · exact h' ▸ .idle
  | dispTick =>
    exact (Host.Outcome.next.inj h) ▸ .latch .dispTimer (by simp) (by simp) (by simp) (by simp)
  | telemTick =>
    exact (Host.Outcome.next.inj h) ▸ .latch .telemTimer (by simp) (by simp) (by simp) (by simp)
  | dispatch src =>
    have h' : (if s.irq.enables src then exec (decodeSource src) s else .next s) = .next t := h
    by_cases he : s.irq.enables src = true
    · rw [if_pos he] at h'
      cases src with
      | i2c =>
        cases hv : s.irq.i2cEvent with
        | none => exact absurd h' (exec_irqI2c_of_none hv)
        | some e =>
          obtain ⟨-, -, rfl⟩ := runHandler_eq_next.1 ((exec_irqI2c_of_event hv).symm.trans h')
          exact .i2c _ _ rfl he hv
      | button k =>
        obtain ⟨hr, -, rfl⟩ := runHandler_eq_next.1 h'
        rw [State.andThen_running (by exact hr)]
        exact .button k rfl he
      | dispTimer =>
        obtain ⟨hr, -, rfl⟩ := runHandler_eq_next.1 h'
        rw [State.andThen_running (by exact hr)]
        exact .dispTimer rfl he
      | telemTimer =>
        obtain ⟨-, -, rfl⟩ := runHandler_eq_next.1 h'
        exact .telemTimer rfl he
    · rw [if_neg he] at h'
      cases h'
      exact .idle

/-- Inversion of a run of one step more. -/
theorem run_succ_eq_next {M : Host.Core} {n : Nat} {s t : M.State}
    (h : M.run (n + 1) s = .next t) : ∃ u, M.step s = .next u ∧ M.run n u = .next t := by
  simp only [Host.Core.run] at h
  cases hs : M.step s with
  | next u =>
    rw [hs] at h
    exact ⟨u, rfl, h⟩
  | fault r =>
    rw [hs] at h
    cases h
  | refused r =>
    rw [hs] at h
    cases h

/-- Inversion of one step: the run was going on, and one agent moved. -/
theorem step_moved (h : step s = .next t) :
    s.irq.run = .running ∧ Moved s.nextMove s.tookMove t := by
  obtain ⟨hr, h⟩ := ifRunning_eq_next.1 h
  exact ⟨hr, runMove_moved h⟩

/-! ### Events presented -/

/-- The events of a run begin with the one that its first step presents. -/
theorem eventsPresented_succ (n : Nat) (h : step s = .next t) :
    eventsPresented (n + 1) s = s.presents.toList ++ eventsPresented n t := by
  simp only [eventsPresented, h]

/-- A step that presents an event does that and nothing else. -/
theorem step_of_presents {i : Instr} (hr : s.irq.run = .running) (h : s.presents = some i) :
    ∃ status dat, i = decodeStatus status dat ∧ step s = .next (s.tookMove.present status dat) := by
  unfold State.presents at h
  split at h <;> try cases h
  rename_i status dat hm
  split_ifs at h with hb
  refine ⟨status, dat, (Option.some.inj h).symm, ?_⟩
  unfold step
  rw [ifRunning_running hr, hm]
  exact congrArg Host.Outcome.next (if_pos (by simpa [State.busFree] using hb))

/-- A run of one step presents the event that the step presents. -/
theorem eventsPresented_one {i : Instr} (hr : s.irq.run = .running) (h : s.presents = some i) :
    eventsPresented 1 s = [i] := by
  obtain ⟨_, _, -, hs⟩ := step_of_presents hr h
  rw [eventsPresented_succ 0 hs, h]
  rfl

/-- A step that presents no event leaves the outstanding one, or ends it. -/
theorem step_of_presents_none (h : s.presents = none) (hs : step s = .next t) :
    t.irq.i2cEvent = s.irq.i2cEvent ∨ t.irq.i2cEvent = none := by
  obtain ⟨hr, hm⟩ := step_moved hs
  have took : s.tookMove.irq.i2cEvent = s.irq.i2cEvent := by simp
  cases hm with
  | present status dat hm hb =>
    have hb' : s.busFree = true := by simpa [State.busFree] using hb
    simp [State.presents, hm, hb'] at h
  | install _ _ =>
    unfold installContext
    split_ifs <;> exact .inl took
  | latch src _ _ _ _ => cases src <;> exact .inl took
  | i2c status dat _ _ _ =>
    have hk := (keeps_engineStep (classOf status) dat (s.tookMove.enterHandler .i2c)).irq
    unfold i2cAction State.andThen
    split_ifs <;> first
      | exact .inr rfl
      | exact .inl (by rcases hk with hk | hk <;> rw [hk] <;> exact took)
  | telemTimer _ _ =>
    unfold telemAction State.andThen
    cases (s.tookMove.enterHandler .telemTimer).telemEffect <;> dsimp only <;> split_ifs <;>
      exact .inl took
  | _ => exact .inl took

end Sys2Proof.Machine
end

