-- ==== Sys2Proof/Laws/Events.lean ====
section
/-! SUPPORT. How an operation and an event end (40_engine_events.md R111, R117): in full, or at a call
that never answers. -/

namespace Sys2Proof.Machine

variable {s t u : State}

/-- Whether a call is answered depends on the coming answers and the free values alone. -/
theorem State.neverAnswers_congr {c : Call} (h1 : t.env.adc = s.env.adc)
    (h2 : t.env.vrmRead = s.env.vrmRead) (h3 : t.env.vrmWrite = s.env.vrmWrite)
    (h4 : t.env.draws = s.env.draws) : t.neverAnswers c ↔ s.neverAnswers c := by
  cases c <;> simp [State.neverAnswers, State.adcAnswer, State.vrmReadAnswer,
    State.vrmWriteAnswer, h1, h2, h3, h4]

/-- A call that is never answered is a blocking one. -/
theorem State.neverAnswers_blocking {c : Call} (h : s.neverAnswers c) : c.isBlocking = true := by
  cases c <;> first | rfl | exact h.elim

/-- How an operation inside an event ends: with the run going on and a few more calls made, at most
one of them a `DatWrite` and none of them the controller's, or at a call that is never answered and
is its last, with everything else as it was but the one answer taken. -/
inductive Ended (s : State) : State → Prop
  | full {t : State} (cs : List Call) : t.irq = s.irq → t.ctl.start = s.ctl.start →
      t.ctl.ackEnable = s.ctl.ackEnable → t.env.calls = s.env.calls ++ cs →
      Call.ctlFlagClear ∉ cs → cs.countP Call.isDatWrite ≤ 1 → Ended s t
  | blocked {t : State} (c : Call) :
      t.irq = { s.irq with run := .wedged } → t.ctl = s.ctl → t.dev = s.dev →
      t.engine = s.engine → t.env.calls = s.env.calls ++ [c] →
      t.env.draws = s.env.draws + 1 → s.neverAnswers c → Ended s t

theorem ended_refl (s : State) : Ended s s :=
  .full [] rfl rfl rfl (by simp) (by simp) (by simp)

theorem ended_datWrite (s : State) (b : Byte) : Ended s (s.datWrite b) :=
  .full [.datWrite b] rfl rfl rfl rfl (by simp) (by simp [Call.isDatWrite])

theorem ended_readSetting (id : Nat) (s : State) : Ended s (readSetting id s) :=
  .full [.settingsGet id, .datWrite (settingAt s.dev.settings id)] rfl rfl rfl
    (by simp [readSetting, State.settingsGet]) (by simp) (by simp [Call.isDatWrite])

theorem ended_readMonitor (sel : Nat) (s : State) : Ended s (readMonitor sel s) := by
  unfold readMonitor
  cases monTable sel with
  | none => exact ended_refl s
  | some ch =>
    dsimp only
    unfold readChannel State.adcSample
    cases ha : s.adcAnswer ch with
    | sample v =>
      exact .full [.adcSample ch, .datWrite (sampleHi v)] rfl rfl rfl (by simp) (by simp)
        (by simp [Call.isDatWrite])
    | hang => exact .blocked (.adcSample ch) rfl rfl rfl rfl rfl rfl ha

theorem ended_resolveRead (c : Byte) (s : State) : Ended s (resolveRead c s) := by
  unfold resolveRead
  split_ifs
  · exact ended_datWrite s _
  · exact .full [.datWrite (uidByte 3)] rfl rfl rfl rfl (by simp) (by simp [Call.isDatWrite])
  · exact .full [.datWrite s.freeByte] rfl rfl rfl rfl (by simp) (by simp [Call.isDatWrite])
  · exact ended_readSetting _ s
  · exact ended_readMonitor _ s
  · exact ended_datWrite s _

/-- The two calls that read downstream. -/
inductive Call.ReadsDown : Call → Prop
  | first (reg : Byte) : ReadsDown (.vrmReadU8 reg)
  | next : ReadsDown .vrmReadRaw

theorem ended_forwardRead {c : Call} (hc : c.ReadsDown) (s : State) :
    Ended s (s.forwardRead c) := by
  unfold State.forwardRead
  cases ha : s.vrmReadAnswer with
  | ok b =>
    exact .full [c, .datWrite b] rfl rfl rfl (by simp) (by cases hc <;> simp)
      (by cases hc <;> simp [Call.isDatWrite])
  | err =>
    exact .full [c] rfl rfl rfl rfl (by cases hc <;> simp)
      (by cases hc <;> simp [Call.isDatWrite])
  | hang => exact .blocked c rfl rfl rfl rfl rfl rfl (by cases hc <;> exact ha)

theorem ended_passthroughFirst (s : State) : Ended s (passthroughFirst s) := by
  unfold passthroughFirst
  split_ifs
  · exact ended_datWrite s _
  · exact ended_forwardRead (.first _) s

/-- A commit writes no response byte. -/
inductive Committed (s : State) : State → Prop
  | full {t : State} (cs : List Call) :
      t.irq = s.irq → t.ctl = s.ctl → t.env.calls = s.env.calls ++ cs →
      Call.ctlFlagClear ∉ cs → cs.countP Call.isDatWrite = 0 →
      t.engine.rxBuf = s.engine.rxBuf → t.engine.txBuf = s.engine.txBuf →
      t.engine.staged = s.engine.staged → Committed s t
  | blocked {t : State} (c : Call) :
      t.irq = { s.irq with run := .wedged } → t.ctl = s.ctl → t.dev = s.dev →
      t.engine = s.engine → t.env.calls = s.env.calls ++ [c] →
      t.env.draws = s.env.draws + 1 → s.neverAnswers c → Committed s t

theorem committed_refl (s : State) : Committed s s :=
  .full [] rfl rfl (by simp) (by simp) (by simp) rfl rfl rfl

theorem committed_settingsSet (id : Nat) (v : Byte) (s : State) :
    Committed s (s.settingsSet id v) :=
  .full [.settingsSet id v] rfl rfl rfl (by simp) (by simp [Call.isDatWrite]) rfl rfl rfl

theorem committed_writeSetting (id : Nat) (v : Byte) (s : State) :
    Committed s (writeSetting id v s) := by
  unfold writeSetting sideChannel
  split_ifs
  · exact .full [.settingsSet id v, .vrmEnableLine 1 v] rfl rfl (by simp) (by simp)
      (by simp [Call.isDatWrite]) rfl rfl rfl
  · exact .full [.settingsSet id v, .vrmEnableLine 2 v] rfl rfl (by simp) (by simp)
      (by simp [Call.isDatWrite]) rfl rfl rfl
  · exact .full [.settingsSet id v, .displayOrientation v] rfl rfl (by simp) (by simp)
      (by simp [Call.isDatWrite]) rfl rfl rfl
  · exact committed_settingsSet id v s

theorem committed_epowerCommit (c v : Byte) (s : State) : Committed s (epowerCommit c v s) := by
  unfold epowerCommit
  split_ifs
  · exact committed_writeSetting _ v s
  · exact committed_refl s

theorem committed_vrmWriteU8 (reg v : Byte) (s : State) : Committed s (s.vrmWriteU8 reg v) := by
  have ok : Committed s (s.askedVrmWrite reg v) :=
    .full [.vrmWriteU8 reg v] rfl rfl rfl (by simp) (by simp [Call.isDatWrite]) rfl rfl rfl
  unfold State.vrmWriteU8
  cases ha : s.vrmWriteAnswer with
  | ok => exact ok
  | err => exact ok
  | hang => exact .blocked (.vrmWriteU8 reg v) rfl rfl rfl rfl rfl rfl ha

theorem committed_stopAction (s : State) : Committed s (stopAction s) := by
  have clear : Committed s s.clearRx.clearTx :=
    .full [] rfl rfl (by simp) (by simp) (by simp) rfl rfl rfl
  unfold stopAction
  cases s.engine.mode with
  | idle => exact committed_refl s
  | epowerRead => exact clear
  | passthroughRead => exact clear
  | epowerWrite =>
    dsimp only
    split_ifs
    · exact committed_epowerCommit _ _ s
    · exact committed_refl s
  | passthroughWrite =>
    dsimp only
    split_ifs
    · exact committed_vrmWriteU8 _ _ s
    · exact committed_refl s

/-- The engine as an event that makes a blocking call leaves it up to that call: `ST_SRA` has entered
the read mode of its address (R115, R117). -/
def engineAtCall (i : StatusClass) (dat : Byte) (e : Engine) : Engine :=
  match i, decodeDevice dat with
  | .sra, .epower => { e with mode := .epowerRead }
  | .sra, .pmic => { e with mode := .passthroughRead }
  | .sra, .none | .swa, _ | .dra, _ | .spr, _ | .dsa, _ | .dsn, _ | .other, _ => e

/-- How a whole event ends, from a running state: with `Finish()`, or at a call that is never
answered, with the controller and the collaborators as they were (R111, R117). -/
inductive EventEnded (i : StatusClass) (dat : Byte) (s : State) : State → Prop
  | full {t : State} (cs : List Call) : t.irq = s.irq →
      t.ctl.ackEnable = true → t.ctl.intFlag = false →
      (t.ctl.start = s.ctl.start ∨ i = .other ∧ t.ctl.start = true) →
      t.env.calls = cs ++ [.ctlAckEnable, .ctlFlagClear] → Call.ctlFlagClear ∉ cs →
      cs.countP Call.isDatWrite ≤ 1 →
      (cs.countP Call.isDatWrite ≠ 0 → i = .sra ∨ i = .dsa) → EventEnded i dat s t
  | blocked {t : State} (c : Call) (n : Nat) :
      i = .spr ∨ i = .dsa ∨ i = .sra ∧ decodeDevice dat ≠ .none →
      t.irq = { s.irq with run := .wedged } → t.ctl = s.ctl →
      t.dev = s.dev → t.engine = engineAtCall i dat s.engine →
      t.env.calls = [c] → t.env.draws = n + 1 → (s.withDraws n).neverAnswers c →
      EventEnded i dat s t

/-- `Finish()` after an operation that made no response. -/
theorem eventEnded_finish {i : StatusClass} {dat : Byte} (h1 : t.irq = s.irq)
    (h2 : t.ctl.start = s.ctl.start) (h3 : Call.ctlFlagClear ∉ t.env.calls)
    (h4 : t.env.calls.countP Call.isDatWrite = 0) : EventEnded i dat s t.finish :=
  .full t.env.calls h1 rfl rfl (.inl h2) (by simp) h3 (by omega) (by omega)

/-- `Finish()` in a transmit state. -/
theorem eventEnded_finishTransmit {i : StatusClass} {dat : Byte} (hi : i = .sra ∨ i = .dsa)
    (h1 : t.irq = s.irq) (h2 : t.ctl.start = s.ctl.start) (h3 : Call.ctlFlagClear ∉ t.env.calls)
    (h4 : t.env.calls.countP Call.isDatWrite ≤ 1) : EventEnded i dat s t.finishTransmit := by
  refine .full t.env.calls (by simp [h1]) (by simp) (by simp) (.inl (by simp [h2])) ?_ h3 h4
    fun _ => hi
  cases hw : wroteByte t.env.calls with
  | false => rw [State.finishTransmit_env_of_silent hw]
  | true => rw [State.finishTransmit_env_of_wrote hw]

/-- The state in which an event of class `i` begins the operation that may make a blocking call: no
call made yet, the read mode of the address entered, perhaps one draw taken. -/
structure Begun (i : StatusClass) (dat : Byte) (s u : State) : Prop where
  irq : u.irq = s.irq
  ctl : u.ctl = s.ctl
  dev : u.dev = s.dev
  engine : u.engine = engineAtCall i dat s.engine
  calls : u.env.calls = []
  adc : u.env.adc = s.env.adc
  vrmRead : u.env.vrmRead = s.env.vrmRead
  vrmWrite : u.env.vrmWrite = s.env.vrmWrite

/-- An operation that blocks in an event ends the event. -/
theorem eventEnded_blocked {i : StatusClass} {dat : Byte} {c : Call}
    (hi : i = .spr ∨ i = .dsa ∨ i = .sra ∧ decodeDevice dat ≠ .none) (hu : Begun i dat s u)
    (h1 : t.irq = { u.irq with run := .wedged }) (h2 : t.ctl = u.ctl) (h3 : t.dev = u.dev)
    (h4 : t.engine = u.engine) (h5 : t.env.calls = u.env.calls ++ [c])
    (h6 : t.env.draws = u.env.draws + 1) (h7 : u.neverAnswers c) : EventEnded i dat s t :=
  .blocked c u.env.draws hi (by rw [h1, hu.irq]) (h2.trans hu.ctl) (h3.trans hu.dev)
    (h4.trans hu.engine) (by rw [h5, hu.calls]; rfl) h6
    ((State.neverAnswers_congr (t := u) (s := s.withDraws u.env.draws)
      hu.adc hu.vrmRead hu.vrmWrite rfl).1 h7)

/-- A transmit event around an operation that starts with no call made. -/
theorem eventEnded_andThen {i : StatusClass} {dat : Byte}
    (hi : i = .dsa ∨ i = .sra ∧ decodeDevice dat ≠ .none) (hr : s.irq.run = .running)
    (hu : Begun i dat s u) (h : Ended u t) :
    EventEnded i dat s (t.andThen State.finishTransmit) := by
  cases h with
  | full cs h1 h2 h3 h4 h5 h6 =>
    rw [State.andThen_running (by rw [h1, hu.irq]; exact hr)]
    rw [hu.calls, List.nil_append] at h4
    exact eventEnded_finishTransmit (by tauto) (h1.trans hu.irq) (h2.trans (by rw [hu.ctl]))
      (h4 ▸ h5) (h4 ▸ h6)
  | blocked c h1 h2 h3 h4 h5 h6 h7 =>
    rw [State.andThen_stopped (by rw [h1]; simp)]
    exact eventEnded_blocked (.inr hi) hu h1 h2 h3 h4 h5 h6 h7

/-- Every event, from a running state. -/
theorem engineStep_ended (cls : StatusClass) (dat : Byte) (hr : s.irq.run = .running) :
    EventEnded cls dat s (engineStep cls dat s) := by
  cases cls with
  | swa => exact eventEnded_finish rfl rfl (by simp) (by simp)
  | dra =>
    show EventEnded _ _ s (eventDra dat s)
    unfold eventDra
    split <;> exact eventEnded_finish rfl rfl (by simp) (by simp)
  | spr =>
    show EventEnded _ _ s (eventSpr s)
    unfold eventSpr
    cases committed_stopAction s.clearCalls with
    | full cs h1 h2 h3 h4 h5 =>
      rw [State.andThen_running (by rw [h1]; exact hr)]
      have hc : (stopAction s.clearCalls).env.calls = cs := by simpa using h3
      exact eventEnded_finish h1 (congrArg Controller.start h2) (hc ▸ h4) (hc ▸ h5)
    | blocked c h1 h2 h3 h4 h5 h6 h7 =>
      rw [State.andThen_stopped (by rw [h1]; simp)]
      exact eventEnded_blocked (u := s.clearCalls) (.inl rfl) ⟨rfl, rfl, rfl, rfl, rfl, rfl, rfl, rfl⟩
        h1 h2 h3 h4 h5 h6 h7
  | sra =>
    show EventEnded _ _ s (eventSra dat s)
    unfold eventSra
    cases hd : decodeDevice dat with
    | epower =>
      have he : { s.engine with mode := .epowerRead } = engineAtCall .sra dat s.engine := by
        simp [engineAtCall, hd]
      have hi : StatusClass.sra = .dsa ∨ StatusClass.sra = .sra ∧ decodeDevice dat ≠ .none := by
        simp [hd]
      dsimp only
      unfold selectCommand
      split_ifs
      · exact eventEnded_andThen (u := (s.clearCalls.setMode .epowerRead).tookDraw) hi hr
          ⟨rfl, rfl, rfl, he, rfl, rfl, rfl, rfl⟩ (ended_resolveRead _ _)
      · exact eventEnded_andThen (u := s.clearCalls.setMode .epowerRead) hi hr
          ⟨rfl, rfl, rfl, he, rfl, rfl, rfl, rfl⟩ (ended_resolveRead _ _)
    | pmic =>
      exact eventEnded_andThen (u := s.clearCalls.setMode .passthroughRead) (by simp [hd]) hr
        ⟨rfl, rfl, rfl, by simp [engineAtCall, hd], rfl, rfl, rfl, rfl⟩ (ended_passthroughFirst _)
    | none => exact eventEnded_finishTransmit (.inl rfl) rfl rfl (by simp) (by simp)
  | dsa =>
    show EventEnded _ _ s (eventDsa s)
    have write : ∀ (t : State) (b : Byte), t.irq = s.irq → t.ctl = s.ctl → t.env.calls = [] →
        EventEnded .dsa dat s (t.datWrite b).finishTransmit := fun t b h1 h2 h3 =>
      eventEnded_finishTransmit (.inr rfl) h1 (by simp [h2]) (by simp [h3])
        (by simp [h3, Call.isDatWrite])
    unfold eventDsa
    split
    · exact eventEnded_andThen (u := s.clearCalls) (.inl rfl) hr
        ⟨rfl, rfl, rfl, rfl, rfl, rfl, rfl, rfl⟩ (ended_forwardRead .next _)
    · unfold sendQueued
      split_ifs <;> exact write _ _ rfl rfl rfl
    · exact write _ _ rfl rfl rfl
    · exact write _ _ rfl rfl rfl
    · exact write _ _ rfl rfl rfl
  | dsn => exact eventEnded_finish rfl rfl (by simp) (by simp)
  | other =>
    exact .full [.ctlStartSet] rfl rfl rfl (.inr ⟨rfl, rfl⟩) rfl (by simp)
      (by simp [Call.isDatWrite]) (by simp [Call.isDatWrite])

/-! ### Answers taken -/

/-- The answers still to come of the collaborators that may never answer (R57, R58, R196). -/
def State.coming (s : State) :
    List AdcAnswer × List VrmReadAnswer × List VrmWriteAnswer × List TelemEffect :=
  (s.env.adc, s.env.vrmRead, s.env.vrmWrite, s.env.telemFx)

/-- From `s` to `t` at most one answer of each of them was taken. -/
structure Taken (s t : State) : Prop where
  adc : t.env.adc = s.env.adc ∨ t.env.adc = s.env.adc.tail
  vrmRead : t.env.vrmRead = s.env.vrmRead ∨ t.env.vrmRead = s.env.vrmRead.tail
  vrmWrite : t.env.vrmWrite = s.env.vrmWrite ∨ t.env.vrmWrite = s.env.vrmWrite.tail
  telemFx : t.env.telemFx = s.env.telemFx ∨ t.env.telemFx = s.env.telemFx.tail

theorem Taken.of_eq (h : t.coming = s.coming) : Taken s t := by
  simp only [State.coming, Prod.mk.injEq] at h
  exact ⟨.inl h.1, .inl h.2.1, .inl h.2.2.1, .inl h.2.2.2⟩

theorem Taken.before (h : Taken u t) (hu : u.coming = s.coming) : Taken s t := by
  simp only [State.coming, Prod.mk.injEq] at hu
  obtain ⟨h1, h2, h3, h4⟩ := hu
  exact ⟨h1 ▸ h.adc, h2 ▸ h.vrmRead, h3 ▸ h.vrmWrite, h4 ▸ h.telemFx⟩

theorem Taken.after (h : Taken s u) (ht : t.coming = u.coming) : Taken s t := by
  simp only [State.coming, Prod.mk.injEq] at ht
  obtain ⟨h1, h2, h3, h4⟩ := ht
  exact ⟨h1 ▸ h.adc, h2 ▸ h.vrmRead, h3 ▸ h.vrmWrite, h4 ▸ h.telemFx⟩

theorem coming_finishTransmit (s : State) : s.finishTransmit.coming = s.coming := by
  unfold State.finishTransmit State.hostClocksByte
  split_ifs <;> rfl

theorem Taken.andThen {k : State → State} (h : Taken s t) (hk : ∀ u, (k u).coming = u.coming) :
    Taken s (t.andThen k) := by
  unfold State.andThen
  split_ifs
  · exact h.after (hk t)
  · exact h

theorem taken_readChannel (ch : Nat) (s : State) : Taken s (readChannel ch s) := by
  unfold readChannel State.adcSample
  cases s.adcAnswer ch <;> exact ⟨.inr rfl, .inl rfl, .inl rfl, .inl rfl⟩

theorem taken_resolveRead (c : Byte) (s : State) : Taken s (resolveRead c s) := by
  unfold resolveRead
  split_ifs
  · exact .of_eq rfl
  · exact .of_eq rfl
  · exact .of_eq rfl
  · exact .of_eq rfl
  · unfold readMonitor
    cases monTable (selectorOf c) with
    | none => exact .of_eq rfl
    | some ch => exact taken_readChannel ch s
  · exact .of_eq rfl

theorem taken_forwardRead (c : Call) (s : State) : Taken s (s.forwardRead c) := by
  unfold State.forwardRead
  cases s.vrmReadAnswer <;> exact ⟨.inl rfl, .inr rfl, .inl rfl, .inl rfl⟩

theorem taken_vrmWriteU8 (reg v : Byte) (s : State) : Taken s (s.vrmWriteU8 reg v) := by
  unfold State.vrmWriteU8
  cases s.vrmWriteAnswer <;> exact ⟨.inl rfl, .inl rfl, .inr rfl, .inl rfl⟩

theorem taken_stopAction (s : State) : Taken s (stopAction s) := by
  unfold stopAction epowerCommit writeSetting sideChannel
  split
  · split_ifs
    · exact taken_vrmWriteU8 _ _ s
    · exact .of_eq rfl
  · split_ifs <;> exact .of_eq rfl
  · exact .of_eq rfl
  · exact .of_eq rfl
  · exact .of_eq rfl

/-- Every event takes at most one answer of each collaborator. -/
theorem taken_engineStep (cls : StatusClass) (dat : Byte) (s : State) :
    Taken s (engineStep cls dat s) := by
  cases cls with
  | swa => exact .of_eq rfl
  | dra =>
    show Taken s (eventDra dat s)
    unfold eventDra
    split <;> exact .of_eq rfl
  | spr =>
    show Taken s (eventSpr s)
    have h : Taken s (stopAction s.clearCalls) := (taken_stopAction s.clearCalls).before rfl
    exact h.andThen fun _ => rfl
  | sra =>
    show Taken s (eventSra dat s)
    unfold eventSra selectCommand passthroughFirst
    split
    · refine Taken.andThen ?_ coming_finishTransmit
      split_ifs <;> exact (taken_resolveRead _ _).before rfl
    · refine Taken.andThen ?_ coming_finishTransmit
      split_ifs
      · exact .of_eq rfl
      · exact (taken_forwardRead _ _).before rfl
    · exact .of_eq (coming_finishTransmit _)
  | dsa =>
    show Taken s (eventDsa s)
    unfold eventDsa sendQueued
    split
    · have h : Taken s (passthroughNext s.clearCalls) :=
        (taken_forwardRead _ s.clearCalls).before rfl
      exact h.andThen coming_finishTransmit
    · split_ifs <;> exact .of_eq (coming_finishTransmit _)
    · exact .of_eq (coming_finishTransmit _)
    · exact .of_eq (coming_finishTransmit _)
    · exact .of_eq (coming_finishTransmit _)
  | dsn => exact .of_eq rfl
  | other => exact .of_eq rfl

/-- The whole I2C dispatch, from the engine's step on (R192 steps 3 to 5, R193). -/
theorem i2cDispatch_eq (status dat : Byte) (u : State) :
    (i2cAction status dat u).andThen State.leaveHandler =
      if (engineStep (classOf status) dat u).irq.run = .running then
        { engineStep (classOf status) dat u with
          irq := { (engineStep (classOf status) dat u).irq with
            i2cEvent := none, irqMask := false } }
      else engineStep (classOf status) dat u := by
  unfold i2cAction
  generalize engineStep (classOf status) dat u = v
  by_cases h : v.irq.run = .running
  · rw [if_pos h, State.andThen_running h, State.andThen_running (by exact h)]
    rfl
  · rw [if_neg h, State.andThen_stopped h, State.andThen_stopped h]

/-- A step takes at most one answer of each collaborator, whichever agent moves. -/
theorem step_taken (h : step s = .next t) : Taken s t := by
  have took : s.tookMove.coming = s.coming := by
    unfold State.tookMove
    split <;> rfl
  obtain ⟨-, hm⟩ := step_moved h
  refine Taken.before ?_ took
  cases hm with
  | install _ _ =>
    unfold installContext
    split_ifs <;> exact .of_eq rfl
  | i2c status dat _ _ _ =>
    rw [i2cDispatch_eq]
    have h := (taken_engineStep (classOf status) dat (s.tookMove.enterHandler .i2c)).before
      (s := s.tookMove) rfl
    split_ifs
    · exact h.after rfl
    · exact h
  | telemTimer _ _ =>
    unfold telemAction State.andThen
    cases (s.tookMove.enterHandler .telemTimer).telemEffect <;> dsimp only <;> split_ifs <;>
      exact ⟨.inl rfl, .inl rfl, .inl rfl, .inr rfl⟩
  | _ => exact .of_eq rfl

/-- Where a STATUS row gives a next state, that is the engine's step of its class. -/
theorem exec_status_eq_next {i : Instr} (hf : i.format = .status) (h : exec i s = .next t) :
    s.irq.run = .running ∧ ∃ cls dat, t = engineStep cls dat s ∧
      i = match cls with
        | .swa => .stSwa dat
        | .dra => .stDra dat
        | .spr => .stSpr
        | .sra => .stSra dat
        | .dsa => .stDsa
        | .dsn => .stDsn
        | .other => .stOther dat := by
  cases i <;> simp only [Instr.format, reduceCtorEq] at hf <;>
    obtain ⟨hr, he⟩ := ifRunning_eq_next.1 h <;> cases he <;> refine ⟨hr, ?_⟩
  case stSwa d => exact ⟨.swa, d, rfl, rfl⟩
  case stDra d => exact ⟨.dra, d, rfl, rfl⟩
  case stSpr => exact ⟨.spr, 0#8, rfl, rfl⟩
  case stSra d => exact ⟨.sra, d, rfl, rfl⟩
  case stDsa => exact ⟨.dsa, 0#8, rfl, rfl⟩
  case stDsn => exact ⟨.dsn, 0#8, rfl, rfl⟩
  case stOther d => exact ⟨.other, d, rfl, rfl⟩

end Sys2Proof.Machine
end

