-- ==== Sys2Proof/Laws/PerInstr.lean ====
section
/-! SUPPORT. A statement about every operation as syntax, one lemma per constructor: the encoder
gives each row a selector of the row's own format in the opcode table (30_encoding.md R95). -/

namespace Sys2Proof.Laws

/-- The selector of an operation is one of the operation's own format. -/
def FormatKept.Statement (i : Instr) : Prop := (encode i).format = i.format

theorem FormatKept.stSwa (dat : Byte) : FormatKept.Statement (.stSwa dat) := rfl

theorem FormatKept.stDra (dat : Byte) : FormatKept.Statement (.stDra dat) := rfl

theorem FormatKept.stSpr : FormatKept.Statement .stSpr := rfl

theorem FormatKept.stSra (dat : Byte) : FormatKept.Statement (.stSra dat) := rfl

theorem FormatKept.stDsa : FormatKept.Statement .stDsa := rfl

theorem FormatKept.stDsn : FormatKept.Statement .stDsn := rfl

theorem FormatKept.stOther (code : Byte) : FormatKept.Statement (.stOther code) := rfl

theorem FormatKept.readUndef0 : FormatKept.Statement .readUndef0 := rfl

theorem FormatKept.readVersion : FormatKept.Statement .readVersion := rfl

theorem FormatKept.readUid : FormatKept.Statement .readUid := rfl

theorem FormatKept.readUndef (n : BitVec 6) : FormatKept.Statement (.readUndef n) := rfl

theorem FormatKept.readSetting (id : BitVec 6) : FormatKept.Statement (.readSetting id) := rfl

theorem FormatKept.readSettingUnrecognized (id : BitVec 6) :
    FormatKept.Statement (.readSettingUnrecognized id) := rfl

theorem FormatKept.readTelemetry0 : FormatKept.Statement .readTelemetry0 := rfl

theorem FormatKept.readTelemetry1 : FormatKept.Statement .readTelemetry1 := rfl

theorem FormatKept.readTelemetry2 : FormatKept.Statement .readTelemetry2 := rfl

theorem FormatKept.readTelemetry3 : FormatKept.Statement .readTelemetry3 := rfl

theorem FormatKept.readTelemetry4 : FormatKept.Statement .readTelemetry4 := rfl

theorem FormatKept.readUnmapped (sel : BitVec 7) : FormatKept.Statement (.readUnmapped sel) := rfl

theorem FormatKept.readReserved (c : Byte) : FormatKept.Statement (.readReserved c) := rfl

theorem FormatKept.writeIgnoredLow (n : BitVec 6) (v : Byte) :
    FormatKept.Statement (.writeIgnoredLow n v) := rfl

theorem FormatKept.writeSetting (id : BitVec 2) (v : Byte) :
    FormatKept.Statement (.writeSetting id v) := rfl

theorem FormatKept.writeSettingL1Enabled (v : Byte) :
    FormatKept.Statement (.writeSettingL1Enabled v) := rfl

theorem FormatKept.writeSettingL2Enabled (v : Byte) :
    FormatKept.Statement (.writeSettingL2Enabled v) := rfl

theorem FormatKept.writeSettingOrientation (v : Byte) :
    FormatKept.Statement (.writeSettingOrientation v) := rfl

theorem FormatKept.writeSettingUnrecognized (id : BitVec 6) (v : Byte) :
    FormatKept.Statement (.writeSettingUnrecognized id v) := rfl

theorem FormatKept.writeIgnoredHigh (n : BitVec 7) (v : Byte) :
    FormatKept.Statement (.writeIgnoredHigh n v) := rfl

theorem FormatKept.ptWrite (reg v : Byte) : FormatKept.Statement (.ptWrite reg v) := rfl

theorem FormatKept.ptReadProbe : FormatKept.Statement .ptReadProbe := rfl

theorem FormatKept.ptReadFirst (reg : Byte) : FormatKept.Statement (.ptReadFirst reg) := rfl

theorem FormatKept.ptReadNext : FormatKept.Statement .ptReadNext := rfl

theorem FormatKept.ptLatch : FormatKept.Statement .ptLatch := rfl

theorem FormatKept.install : FormatKept.Statement .install := rfl

theorem FormatKept.unmask : FormatKept.Statement .unmask := rfl

theorem FormatKept.irqI2c : FormatKept.Statement .irqI2c := rfl

theorem FormatKept.irqButton (k : Nat) : FormatKept.Statement (.irqButton k) := rfl

theorem FormatKept.irqDispTimer : FormatKept.Statement .irqDispTimer := rfl

theorem FormatKept.irqTelemTimer : FormatKept.Statement .irqTelemTimer := rfl

end Sys2Proof.Laws
end

