-- ==== Sys2Proof/Tests/Slice0.lean ====
section
/-! SUPPORT. Tests of the model against the spec's own bit patterns (30_encoding.md) and vectors
(95_test_vectors.md), and for every obligation with premises a state that meets them. -/

namespace Sys2Proof.Tests

open Sys2Proof.Machine

-- One thread: the many small theorems of this file would otherwise be checked all at once.
set_option Elab.async false

/-! ### Small states -/

/-- An engine at the given mode and cursors; its buffers are those of V23 and V58. -/
def engineAt (m : Mode) (rx : Fin 9) (tx : Fin 4) : Engine where
  mode := m
  rxBuf := #v[0x21#8, 0x7F#8, 0x33#8, 0#8, 0#8, 0#8, 0#8, 0x99#8]
  rxCursor := rx
  txBuf := #v[0x44#8, 0x33#8, 0x22#8, 0x11#8]
  txCursor := tx
  staged := 0xCD#8

/-- A booted block with that engine, nothing pending, and no listed answer. -/
def at' (m : Mode) (rx : Fin 9) (tx : Fin 4) : State where
  engine := engineAt m rx tx
  ctl :=
    { enabled := true, ackEnable := true, start := false, intFlag := true, status := 0#8,
      data := 0#8, ownAddrs := [] }
  irq := { State.reset.irq with ctxInstalled := true, irqMask := false }
  dev := State.reset.dev
  env := { State.reset.env with startup := .idle }

/-- The idle engine of `Q0`. -/
def quiet : State := at' .idle 0 0

/-- With the given command latched. -/
def latched (c : Byte) : State :=
  { at' .idle 1 0 with
    engine := { engineAt .idle 1 0 with rxBuf := (engineAt .idle 1 0).rxBuf.set 0 c } }

/-- With the given coming answers. -/
def answers (s : State) (a : List AdcAnswer) (r : List VrmReadAnswer) (w : List VrmWriteAnswer) :
    State :=
  { s with env := { s.env with adc := a, vrmRead := r, vrmWrite := w } }

/-- With the given coming move. -/
def moving (s : State) (m : Move) : State := { s with env := { s.env with schedule := [m] } }

/-- With the given event outstanding. -/
def withEvent (s : State) (status dat : Byte) : State :=
  { s with
    ctl := { s.ctl with intFlag := true, status := status, data := dat }
    irq := { s.irq with pendingI2c := true, i2cEvent := some (status, dat) } }

/-- With every other source pending. -/
def allPending (s : State) : State :=
  { s with irq := { s.irq with pendingButtons := [0], pendingDisp := true, pendingTelem := true } }

/-- A look at the next state, if there is one. -/
def look {α : Type} (o : Host.Outcome State Fault Refusal) (f : State → α) : Option α :=
  match o with
  | .next t => some (f t)
  | .fault _ | .refused _ => none

/-- A status byte that is none of the six. -/
def otherCode : Byte := Config.statusCodes 6#8

theorem otherCode_not_named : otherCode ∉ Config.namedCodes := by
  simp [otherCode, Config.namedCodes, Config.stSwa, Config.stDra, Config.stSpr, Config.stSra,
    Config.stDsa, Config.stDsn]

theorem nButton_pos : 0 < Config.nButton := Nat.succ_pos _

/-! ### Well-formedness: each check refuses an ill-formed term -/

theorem test_illFormed_stOther : ¬ (Instr.stOther Config.stDsn).WellFormed := by
  simp [Instr.WellFormed, Config.namedCodes]
theorem test_illFormed_readUndef : ¬ (Instr.readUndef 2#6).WellFormed := by decide
theorem test_illFormed_readSetting : ¬ (Instr.readSetting 7#6).WellFormed := by decide
theorem test_illFormed_readSettingUnrecognized :
    ¬ (Instr.readSettingUnrecognized 6#6).WellFormed := by decide
theorem test_illFormed_readUnmapped_low : ¬ (Instr.readUnmapped 4#7).WellFormed := by decide
theorem test_illFormed_readUnmapped_high : ¬ (Instr.readUnmapped 123#7).WellFormed := by decide
theorem test_illFormed_readReserved : ¬ (Instr.readReserved 250#8).WellFormed := by decide
theorem test_illFormed_writeSettingUnrecognized :
    ¬ (Instr.writeSettingUnrecognized 6#6 0#8).WellFormed := by decide
theorem test_illFormed_irqButton : ¬ (Instr.irqButton Config.nButton).WellFormed := by
  simp [Instr.WellFormed]

/-! ### Decoding: words written out from R81, R85 to R88, R94, R95 -/

theorem test_decode_stSwa : decode (.status Config.stSwa 0x70#8) = .ok (.stSwa 0x70#8) := by
  simp [decode, decodeStatus]
theorem test_decode_stDra : decode (.status Config.stDra 0x41#8) = .ok (.stDra 0x41#8) := by
  simp [decode, decodeStatus]
theorem test_decode_stSpr : decode (.status Config.stSpr 0x41#8) = .ok .stSpr := by
  simp [decode, decodeStatus]
theorem test_decode_stSra : decode (.status Config.stSra 0x71#8) = .ok (.stSra 0x71#8) := by
  simp [decode, decodeStatus]
theorem test_decode_stDsa : decode (.status Config.stDsa 0x41#8) = .ok .stDsa := by
  simp [decode, decodeStatus]
theorem test_decode_stDsn : decode (.status Config.stDsn 0x41#8) = .ok .stDsn := by
  simp [decode, decodeStatus]
theorem test_decode_stOther : decode (.status otherCode 0x41#8) = .ok (.stOther otherCode) := by
  simp [decode, decodeStatus, classOf_of_not_named otherCode_not_named]

theorem test_decode_readUndef0 : decode (.cmdRead 0b00000000#8) = .ok .readUndef0 := by decide
theorem test_decode_readVersion : decode (.cmdRead 0b00000001#8) = .ok .readVersion := by decide
theorem test_decode_readUid : decode (.cmdRead 0b00000010#8) = .ok .readUid := by decide
theorem test_decode_readUndef : decode (.cmdRead 0b00111111#8) = .ok (.readUndef 0b111111#6) := by
  decide
theorem test_decode_readSetting : decode (.cmdRead 0b01000110#8) = .ok (.readSetting 6#6) := by
  decide
theorem test_decode_readSettingUnrecognized :
    decode (.cmdRead 0b01000111#8) = .ok (.readSettingUnrecognized 7#6) := by decide
theorem test_decode_readTelemetry0 : decode (.cmdRead 0b10000000#8) = .ok .readTelemetry0 := by
  decide
theorem test_decode_readTelemetry1 : decode (.cmdRead 0b10000001#8) = .ok .readTelemetry1 := by
  decide
theorem test_decode_readTelemetry2 : decode (.cmdRead 0b10000010#8) = .ok .readTelemetry2 := by
  decide
theorem test_decode_readTelemetry3 : decode (.cmdRead 0b10000011#8) = .ok .readTelemetry3 := by
  decide
theorem test_decode_readTelemetry4 : decode (.cmdRead 0b10000100#8) = .ok .readTelemetry4 := by
  decide
theorem test_decode_readUnmapped : decode (.cmdRead 0b10000101#8) = .ok (.readUnmapped 5#7) := by
  decide
theorem test_decode_readReserved : decode (.cmdRead 0b11111011#8) = .ok (.readReserved 251#8) := by
  decide

theorem test_decode_writeIgnoredLow :
    decode (.cmdWrite [0b00111111#8, 0x55#8]) = .ok (.writeIgnoredLow 0b111111#6 0x55#8) := by
  decide
theorem test_decode_writeSetting :
    decode (.cmdWrite [0b01000011#8, 0xFF#8]) = .ok (.writeSetting 3#2 0xFF#8) := by decide
theorem test_decode_writeSettingL1Enabled :
    decode (.cmdWrite [0b01000100#8, 0x01#8]) = .ok (.writeSettingL1Enabled 0x01#8) := by decide
theorem test_decode_writeSettingL2Enabled :
    decode (.cmdWrite [0b01000101#8, 0x00#8]) = .ok (.writeSettingL2Enabled 0x00#8) := by decide
theorem test_decode_writeSettingOrientation :
    decode (.cmdWrite [0b01000110#8, 0x01#8]) = .ok (.writeSettingOrientation 0x01#8) := by decide
theorem test_decode_writeSettingUnrecognized :
    decode (.cmdWrite [0b01000111#8, 0x55#8]) = .ok (.writeSettingUnrecognized 7#6 0x55#8) := by
  decide
theorem test_decode_writeIgnoredHigh :
    decode (.cmdWrite [0b10000000#8, 0x55#8]) = .ok (.writeIgnoredHigh 0#7 0x55#8) := by decide
/-- R153: three bytes are no write. -/
theorem test_decode_threeBytes :
    decode (.cmdWrite [0x41#8, 0x01#8, 0x02#8]) = .error .notTwoBytes := by decide

theorem test_decode_ptWrite :
    decode (.ptStop [0x21#8, 0x7F#8]) = .ok (.ptWrite 0x21#8 0x7F#8) := by decide
theorem test_decode_ptReadProbe : decode (.ptFirst []) = .ok .ptReadProbe := by decide
theorem test_decode_ptReadFirst :
    decode (.ptFirst [0x21#8, 0x7F#8]) = .ok (.ptReadFirst 0x21#8) := by decide
theorem test_decode_ptReadNext : decode .ptNext = .ok .ptReadNext := by decide
theorem test_decode_ptLatch : decode (.ptStop [0x21#8]) = .ok .ptLatch := by decide

theorem test_decode_install : decode .startInstall = .ok .install := by decide
theorem test_decode_unmask : decode .startUnmask = .ok .unmask := by decide
theorem test_decode_irqI2c : decode (.irq .i2c) = .ok .irqI2c := by decide
theorem test_decode_irqButton : decode (.irq (.button 0)) = .ok (.irqButton 0) := by
  simp [decode, nButton_pos]
theorem test_decode_noSuchButton :
    decode (.irq (.button Config.nButton)) = .error .noSuchButton := by simp [decode]
theorem test_decode_irqDispTimer : decode (.irq .dispTimer) = .ok .irqDispTimer := by decide
theorem test_decode_irqTelemTimer : decode (.irq .telemTimer) = .ok .irqTelemTimer := by decide

/-- The direction bit is ignored, and an address of neither device is `None` (R84). -/
theorem test_decodeDevice :
    decodeDevice (addrByte Config.addrEpower 0#1) = .epower ∧
      decodeDevice (addrByte Config.addrEpower 1#1) = .epower ∧
      decodeDevice (addrByte Config.addrPmic 1#1) = .pmic ∧
      decodeDevice (addrByte (Config.slaveAddrs 2#7) 1#1) = .none := by
  simp [decodeDevice, Config.addrEpower, Config.addrPmic, Config.slaveAddrs.injective.eq_iff]

/-- The host's word of READ_UID, and of a WRITE_IGNORED_HIGH row that no read row shares. -/
theorem test_decodeTableWord :
    decodeTableWord 8 2 = some .readUid ∧
      decodeTableWord 8 0xC1 = some (.writeIgnoredHigh 0x41#7 0#8) := by decide

/-! ### The status events: vectors V1 to V33 -/

/-- V2: the direction bit is ignored. -/
theorem test_stSwa_epower :
    look (exec (.stSwa (addrByte Config.addrEpower 1#1)) (at' .idle 2 0))
      (fun t => (t.engine.mode, t.engine.rxCursor, t.ctl.intFlag)) =
      some (.epowerWrite, 0, false) := by
  simp [look, exec, execStSwa, ifRunning, at', State.reset, eventSwa, writeMode]
/-- V3: the send cursor is not cleared. -/
theorem test_stSwa_pmic :
    look (exec (.stSwa (addrByte Config.addrPmic 0#1)) (at' .epowerRead 1 2))
      (fun t => (t.engine.mode, t.engine.rxCursor, t.engine.txCursor)) =
      some (.passthroughWrite, 0, 2) := by
  simp [look, exec, execStSwa, ifRunning, at', State.reset, eventSwa, writeMode, engineAt]
/-- V6: the eighth byte. -/
theorem test_stDra_eighth :
    look (exec (.stDra 0xAA#8) (at' .passthroughWrite 7 0))
      (fun t => (t.engine.rxCursor, t.engine.rxBuf[7], t.env.calls)) =
      some (8, 0xAA#8, [.ctlAckEnable, .ctlFlagClear]) := by decide
/-- V7: the ninth byte is dropped. -/
theorem test_stDra_ninth :
    look (exec (.stDra 0xBB#8) (at' .passthroughWrite 8 0))
      (fun t => (t.engine.rxCursor, t.engine.rxBuf[7])) = some (8, 0x99#8) := by decide
/-- V15: a downstream error is swallowed. -/
theorem test_stSpr_swallows :
    look (exec .stSpr (answers (at' .passthroughWrite 2 0) [] [] [.err]))
      (fun t => (t.engine.mode, t.engine.rxCursor, t.irq.run, t.env.calls)) =
      some (.idle, 2, .running,
        [.vrmWriteU8 0x21#8 0x7F#8, .ctlAckEnable, .ctlFlagClear]) := by decide
/-- V16: both cursors after a read. -/
theorem test_stSpr_read :
    look (exec .stSpr (at' .epowerRead 1 2))
      (fun t => (t.engine.mode, t.engine.rxCursor, t.engine.txCursor)) = some (.idle, 0, 0) := by
  decide
/-- V19: the version byte. -/
theorem test_stSra_version :
    look (exec (.stSra (addrByte Config.addrEpower 1#1)) (latched 1#8))
      (fun t => (t.engine.mode, t.env.hostByte, t.engine.rxCursor)) =
      some (.epowerRead, some Config.fwVersion, 1) := by
  simp [look, exec, execStSra, ifRunning, latched, at', engineAt, State.reset, eventSra,
    selectCommand, resolveRead, readVersion, State.andThen, State.finishTransmit_env_of_wrote,
    wroteByte]
/-- V22: the probe byte of the bridge. -/
theorem test_stSra_probe :
    look (exec (.stSra (addrByte Config.addrPmic 1#1)) quiet)
      (fun t => (t.engine.mode, t.env.hostByte)) = some (.passthroughRead, some 0xFF#8) := by
  simp [look, exec, execStSra, ifRunning, quiet, at', engineAt, State.reset, eventSra,
    passthroughFirst, passthroughProbe, probeByte, State.andThen,
    State.finishTransmit_env_of_wrote, wroteByte]
/-- V23: the queue is read at the cursor less one. -/
theorem test_stDsa_queue :
    look (exec .stDsa (at' .epowerRead 0 3)) (fun t => (t.ctl.data, t.engine.txCursor)) =
      some (0x22#8, 2) := by decide
/-- V26: the sentinel outside a read. -/
theorem test_stDsa_idle :
    look (exec .stDsa quiet) (fun t => (t.ctl.data, t.env.hostByte)) =
      some (0xEE#8, some 0xEE#8) := by decide
/-- V31: a write mode keeps its mode. -/
theorem test_stDsn :
    look (exec .stDsn (at' .epowerWrite 2 1))
      (fun t => (t.engine.mode, t.engine.rxCursor, t.engine.txCursor)) =
      some (.epowerWrite, 0, 0) := by decide
/-- V32: START first, then `Finish()`. -/
theorem test_stOther :
    look (exec (.stOther otherCode) (at' .epowerRead 1 3))
      (fun t => (t.engine.txCursor, t.ctl.start, t.env.calls)) =
      some (3, true, [.ctlStartSet, .ctlAckEnable, .ctlFlagClear]) := by decide

/-! ### The register map: vectors V34 to V57 -/

/-- V34. -/
theorem test_readUndef0 :
    look (exec .readUndef0 quiet) (fun t => (t.env.calls.length, t.env.draws)) = some (1, 14) := by
  decide
/-- V35. -/
theorem test_readVersion :
    look (exec .readVersion quiet) (fun t => t.ctl.data) = some Config.fwVersion := rfl
/-- V36: the most significant byte first, three left. -/
theorem test_readUid :
    look (exec .readUid quiet) (fun t => (t.ctl.data, t.engine.txCursor)) =
      some (Config.deviceUid.extractLsb' 24 8, 3) := rfl
/-- V37: whatever the command, a draw. -/
theorem test_readUndef :
    look (exec (.readUndef 0x3F#6) quiet) (fun t => t.ctl.data) = some (Config.drawU8 13) := rfl
/-- V38, with the initial settings. -/
theorem test_readSetting :
    look (exec (.readSetting 6#6) quiet) (fun t => (t.ctl.data, t.env.calls)) =
      some (Config.settingsInit 6, [.settingsGet 6, .datWrite (Config.settingsInit 6)]) := rfl
/-- V39. -/
theorem test_readSettingUnrecognized :
    look (exec (.readSettingUnrecognized 63#6) quiet) (fun t => (t.ctl.data, t.env.calls)) =
      some (0#8, [.settingsGet 63, .datWrite 0#8]) := by decide
/-- V40. -/
theorem test_readTelemetry0 :
    look (exec .readTelemetry0 (answers quiet [.sample 0x0123#16] [] []))
      (fun t => (t.env.calls, t.engine.staged)) =
      some ([.adcSample 2, .datWrite 0x01#8], 0x23#8) := by decide
/-- V41. -/
theorem test_readTelemetry1 :
    look (exec .readTelemetry1 (answers quiet [.sample 0xFFFF#16] [] []))
      (fun t => (t.env.calls, t.engine.staged)) =
      some ([.adcSample 1, .datWrite 0xFF#8], 0xFF#8) := by decide
/-- V42. -/
theorem test_readTelemetry2 :
    look (exec .readTelemetry2 (answers quiet [.sample 0xABCD#16] [] []))
      (fun t => (t.env.calls, t.engine.staged)) =
      some ([.adcSample 8, .datWrite 0xAB#8], 0xCD#8) := by decide
/-- V45: a conversion that never ends. -/
theorem test_readTelemetry2_hang :
    look (exec .readTelemetry2 (answers quiet [.hang] [] []))
      (fun t => (t.env.calls, t.engine.staged, t.irq.run)) =
      some ([.adcSample 8], 0xCD#8, .wedged) := by decide
/-- V43. -/
theorem test_readTelemetry3 :
    look (exec .readTelemetry3 (answers quiet [.sample 0x0000#16] [] []))
      (fun t => (t.env.calls, t.engine.staged)) =
      some ([.adcSample 10, .datWrite 0x00#8], 0x00#8) := by decide
/-- V44: data, not the sentinel. -/
theorem test_readTelemetry4 :
    look (exec .readTelemetry4 (answers quiet [.sample 0x00EE#16] [] []))
      (fun t => (t.env.calls, t.engine.staged)) =
      some ([.adcSample 9, .datWrite 0x00#8], 0xEE#8) := by decide
/-- V46. -/
theorem test_readUnmapped :
    look (exec (.readUnmapped 122#7) quiet) (fun t => (t.env.calls, t.ctl.data)) =
      some ([], 0#8) := by decide
/-- V47. -/
theorem test_readReserved :
    look (exec (.readReserved 0xFF#8) quiet) (fun t => t.env.calls) =
      some [.datWrite 0xEE#8] := by decide

/-- V56. -/
theorem test_writeIgnoredLow :
    look (exec (.writeIgnoredLow 1#6 0x99#8) quiet) (fun t => t.env.calls) = some [] := by decide
/-- V51: no range check. -/
theorem test_writeSetting :
    look (exec (.writeSetting 3#2 0xFF#8) quiet)
      (fun t => (t.env.calls, settingAt t.dev.settings 3)) =
      some ([.settingsSet 3 0xFF#8], 0xFF#8) := by
  simp [look, exec, execWriteSetting, ifRunning, quiet, at', State.reset, writeSetting, sideChannel,
    settingAt_put_same]
/-- V52. -/
theorem test_writeSettingL1Enabled :
    look (exec (.writeSettingL1Enabled 0x01#8) quiet) (fun t => (t.env.calls, t.dev.enable1Sent)) =
      some ([.settingsSet 4 0x01#8, .vrmEnableLine 1 0x01#8], some 0x01#8) := by decide
/-- V53. -/
theorem test_writeSettingL2Enabled :
    look (exec (.writeSettingL2Enabled 0x00#8) quiet) (fun t => (t.env.calls, t.dev.enable2Sent)) =
      some ([.settingsSet 5 0x00#8, .vrmEnableLine 2 0x00#8], some 0x00#8) := by decide
/-- V54. -/
theorem test_writeSettingOrientation :
    look (exec (.writeSettingOrientation 0x01#8) quiet)
      (fun t => (t.env.calls, t.dev.orientationSent)) =
      some ([.settingsSet 6 0x01#8, .displayOrientation 0x01#8], some 0x01#8) := by decide
/-- V55. -/
theorem test_writeSettingUnrecognized :
    look (exec (.writeSettingUnrecognized 7#6 0x55#8) quiet)
      (fun t => (t.env.calls, t.dev.settings)) = some ([.settingsSet 7 0x55#8], []) := by decide
/-- V57. -/
theorem test_writeIgnoredHigh :
    look (exec (.writeIgnoredHigh 0x7F#7 0x55#8) quiet) (fun t => t.env.calls) = some [] := by
  decide

/-! ### The bridge: vectors V58 to V65 -/

/-- V58. -/
theorem test_ptWrite :
    look (exec (.ptWrite 0x21#8 0x7F#8) (answers quiet [] [] [.ok])) (fun t => t.env.calls) =
      some [.vrmWriteU8 0x21#8 0x7F#8] := by decide
/-- V59. -/
theorem test_ptWrite_hang :
    look (exec (.ptWrite 0x21#8 0x7F#8) (answers quiet [] [] [.hang])) (fun t => t.irq.run) =
      some .wedged := by decide
/-- V22. -/
theorem test_ptReadProbe :
    look (exec .ptReadProbe quiet) (fun t => t.env.calls) = some [.datWrite 0xFF#8] := by decide
/-- V61. -/
theorem test_ptReadFirst :
    look (exec (.ptReadFirst 0x21#8) (answers quiet [] [.ok 0x7F#8] [])) (fun t => t.env.calls) =
      some [.vrmReadU8 0x21#8, .datWrite 0x7F#8] := by decide
/-- V29. -/
theorem test_ptReadNext :
    look (exec .ptReadNext (answers quiet [] [.ok 0x03#8] [])) (fun t => t.env.calls) =
      some [.vrmReadRaw, .datWrite 0x03#8] := by decide
/-- V65: no byte. -/
theorem test_ptReadNext_err :
    look (exec .ptReadNext (answers quiet [] [.err] [])) (fun t => (t.env.calls, t.irq.run)) =
      some ([.vrmReadRaw], .running) := by decide
/-- V60. -/
theorem test_ptLatch :
    look (exec .ptLatch (at' .passthroughWrite 1 0)) (fun t => (t.env.calls, t.engine.rxCursor)) =
      some ([], 1) := by decide

/-! ### The dispatcher: vectors V68 to V77 -/

/-- V68. -/
theorem test_install :
    look (exec .install State.reset)
      (fun t => (t.irq.ctxInstalled, t.irq.irqMask, t.engine.mode)) = some (true, true, .idle) := by
  decide
/-- V69. -/
theorem test_install_twice :
    look (exec .install quiet) (fun t => (t.irq.run, t.engine.staged)) =
      some (.fatal, 0xCD#8) := by decide
/-- V70. -/
theorem test_unmask :
    look (exec .unmask { quiet with irq := { quiet.irq with irqMask := true } })
      (fun t => t.irq.irqMask) = some false := by decide
/-- V71. -/
theorem test_unmask_reset : exec .unmask State.reset = .refused .unmaskWithoutContext := rfl
/-- V72. -/
theorem test_irqI2c :
    look (exec .irqI2c (withEvent (at' .idle 2 0) Config.stSwa (addrByte Config.addrEpower 0#1)))
      (fun t => (t.engine.mode, t.irq.pendingI2c, t.irq.i2cEvent, t.irq.irqMask)) =
      some (.epowerWrite, false, none, false) := by
  simp [look, exec, execIrqI2c, withEvent, at', State.reset, runHandler, ifRunning,
    Dispatcher.enables, Dispatcher.isPending, i2cAction, engineStep, eventSwa, State.andThen,
    Dispatcher.acknowledge, writeMode]
/-- V73. -/
theorem test_irqI2c_masked :
    exec .irqI2c { withEvent quiet 0#8 0#8 with
      irq := { (withEvent quiet 0#8 0#8).irq with irqMask := true } } =
      .refused .dispatchNotEnabled := rfl
/-- V77: one dispatch serves two edges. -/
theorem test_irqButton :
    look (exec (.irqButton 0) (allPending quiet)) (fun t => (t.irq.pendingButtons, t.irq.irqMask)) =
      some ([], false) := by decide
/-- V74. -/
theorem test_irqDispTimer :
    look (exec .irqDispTimer (allPending (at' .epowerWrite 1 0)))
      (fun t => (t.engine.rxCursor, t.irq.pendingDisp, t.irq.pendingTelem)) =
      some (1, false, true) := by decide
/-- V76. -/
theorem test_irqTelemTimer_hang :
    look (exec .irqTelemTimer { allPending quiet with
        env := { quiet.env with telemFx := [.hang (Vector.replicate 8 1#8)] } })
      (fun t => (t.irq.run, t.irq.irqMask)) = some (.wedged, true) := by decide

/-! ### Memory, and the host's placing -/

theorem test_reset_memory : Memory.wf State.reset.dev.settings := Memory.wf_nil

/-- The next step after the host's placing of READ_VERSION is its event, whose response is read. -/
theorem test_withFetchWord_readVersion :
    look (step (State.reset.withFetchWord 8 1)) (fun t => t.env.hostByte) =
      some (some Config.fwVersion) := by
  have h : step (State.reset.withFetchWord 8 1) =
      .next ((i2cAction Config.stSra (addrByte Config.addrEpower 1#1)
        ((State.reset.withFetchWord 8 1).tookMove.enterHandler .i2c)).andThen
          State.leaveHandler) := rfl
  rw [h, i2cDispatch_eq, classOf_stSra]
  have e : ∀ u, engineStep .sra (addrByte Config.addrEpower 1#1) u =
      (selectCommand (u.clearCalls.setMode .epowerRead) resolveRead).andThen
        State.finishTransmit := by
    intro u
    show eventSra _ u = _
    unfold eventSra
    rw [decodeDevice_epower]
  rw [e]
  rfl

/-- The placing of WRITE_SETTING_L1_ENABLED gives a next step. -/
theorem test_withFetchWord_writeSettingL1Enabled :
    ∃ t, step (State.reset.withFetchWord 8 0x44) = .next t := ⟨_, rfl⟩

/-! ### Witnesses: states and operands that meet the premises of each obligation -/

theorem witness_DecodeOfEncodeIsTheInstruction :
    (∀ i ∈ [Instr.readUndef 3#6, .readUndef 63#6, .readSetting 0#6, .readSetting 6#6,
      .readSettingUnrecognized 7#6, .readSettingUnrecognized 63#6, .readUnmapped 5#7,
      .readUnmapped 122#7, .readReserved 251#8, .readReserved 255#8,
      .writeSettingUnrecognized 7#6 0#8, .writeSettingUnrecognized 63#6 0#8, .ptLatch],
      i.WellFormed) ∧ (Instr.stOther otherCode).WellFormed ∧ (Instr.irqButton 0).WellFormed :=
  ⟨by simp [Instr.WellFormed], otherCode_not_named, nButton_pos⟩

theorem witness_DecodedInstructionsAreWellFormed :
    decode (.cmdRead 250#8) = .ok (.readUnmapped 122#7) ∧
      decode (.cmdWrite [71#8, 0#8]) = .ok (.writeSettingUnrecognized 7#6 0#8) := by decide

theorem witness_StSwaEntersTheWriteModeAndClearsTheReceiveCursor :
    quiet.irq.run = .running := rfl

theorem witness_StDraStoresInWriteModesAndDropsOtherwise :
    (at' .epowerWrite 7 0).irq.run = .running ∧ (at' .epowerWrite 7 0).engine.mode = .epowerWrite ∧
      (at' .epowerWrite 7 0).engine.rxCursor.val < 8 ∧
      (at' .passthroughWrite 8 0).engine.mode = .passthroughWrite ∧
      (at' .passthroughWrite 8 0).engine.rxCursor.val = 8 ∧
      (at' .idle 8 0).engine.mode ≠ .epowerWrite ∧ (at' .idle 8 0).engine.mode ≠ .passthroughWrite := by
  decide

theorem witness_StSprCommitsTwoBytesOrClearsReadCursors :
    (at' .passthroughWrite 2 0).irq.run = .running ∧
      (at' .passthroughWrite 2 0).engine.mode = .passthroughWrite ∧
      (at' .passthroughWrite 2 0).engine.rxCursor = 2 ∧
      (at' .epowerWrite 2 0).engine.mode = .epowerWrite ∧
      (at' .epowerWrite 2 0).engine.rxCursor = 2 ∧
      (at' .epowerRead 1 2).engine.mode = .epowerRead ∧
      (at' .epowerWrite 3 0).engine.mode = .epowerWrite ∧
      (at' .epowerWrite 3 0).engine.rxCursor ≠ 2 ∧ (at' .passthroughWrite 1 0).engine.rxCursor ≠ 2 ∧
      quiet.engine.mode = .idle := by decide

theorem witness_StSraRunsTheSelectedRead :
    (latched 1#8).irq.run = .running ∧ (latched 1#8).engine.rxCursor ≠ 0 ∧
      quiet.engine.rxCursor = 0 ∧ decodeDevice (addrByte Config.addrEpower 1#1) = .epower ∧
      decodeDevice (addrByte Config.addrPmic 1#1) = .pmic ∧
      decodeDevice (addrByte (Config.slaveAddrs 2#7) 1#1) = .none :=
  ⟨rfl, by decide, rfl, test_decodeDevice.2⟩

theorem witness_TransmitEndsWithTheByteWrittenOrADraw :
    (∃ b, Call.datWrite b ∈ (quiet.datWrite 0#8).env.calls) ∧
      ∀ b, Call.datWrite b ∉ quiet.env.calls :=
  ⟨⟨0#8, by decide⟩, fun _ => List.not_mem_nil⟩

theorem witness_FirstResponseByteOfEveryCommandBand :
    decodeDevice (addrByte Config.addrEpower 1#1) = .epower ∧
      (∀ c ∈ [0#8, 1#8, 2#8, 3#8, 63#8, 64#8, 127#8, 133#8, 250#8, 251#8, 255#8],
        (latched c).irq.run = .running ∧ (latched c).engine.rxCursor ≠ 0 ∧
          (latched c).engine.rxBuf[0] = c) :=
  ⟨test_decodeDevice.2.1, by decide⟩

theorem witness_StDsaSendsQueuedStagedSentinelOrForwarded :
    (at' .epowerRead 0 3).irq.run = .running ∧ (at' .epowerRead 0 3).engine.mode = .epowerRead ∧
      (at' .epowerRead 0 3).engine.txCursor ≠ 0 ∧ (at' .epowerRead 0 1).engine.txCursor ≠ 0 ∧
      (at' .epowerRead 0 0).engine.txCursor = 0 ∧ quiet.engine.mode = .idle ∧
      (at' .passthroughRead 0 0).engine.mode = .passthroughRead := by decide

theorem witness_StDsnClearsBothCursors : (at' .epowerRead 1 1).irq.run = .running := rfl

theorem witness_StOtherSetsStartAndChangesNoEngineRegister :
    (at' .epowerRead 1 3).irq.run = .running := rfl

theorem witness_NextModeDependsOnTheEventAlone :
    (∃ t, exec (.stSwa 0#8) quiet = .next t ∧ t.irq.run = .running) ∧
      (∃ t, exec (.stSra (addrByte Config.addrPmic 1#1)) quiet = .next t ∧
        t.irq.run = .running) ∧
      (∃ t, exec .stSpr quiet = .next t ∧ t.irq.run = .running) ∧
      ∃ t, exec (.stDra 0#8) quiet = .next t ∧ t.irq.run = .running := by
  refine ⟨⟨_, rfl, rfl⟩, ⟨_, rfl, ?_⟩, ⟨_, rfl, rfl⟩, _, rfl, rfl⟩
  unfold eventSra
  rw [decodeDevice_pmic]
  rfl

/-- A telemetry read, whose low byte is staged. -/
def telemetry : State := answers (latched 0x80#8) [.sample 0x0123#16] [] []

/-- A write of L1's setting, complete. -/
def writeL1 : State :=
  { at' .epowerWrite 2 0 with
    engine := { engineAt .epowerWrite 2 0 with
      rxBuf := #v[0x44#8, 0x01#8, 0#8, 0#8, 0#8, 0#8, 0#8, 0#8] } }

theorem witness_EventsChangeOnlyTheirRegisters :
    (∃ t, exec (.stDra 0x41#8) (at' .epowerWrite 0 0) = .next t ∧
      t.engine.rxBuf ≠ (at' .epowerWrite 0 0).engine.rxBuf ∧
      t.engine.rxCursor ≠ (at' .epowerWrite 0 0).engine.rxCursor) ∧
    (∃ t, exec (.stSra (addrByte Config.addrEpower 1#1)) telemetry = .next t ∧
      t.engine.staged ≠ telemetry.engine.staged ∧ Call.adcSample 2 ∈ t.env.calls) ∧
    (∃ t, exec .stDsa (at' .epowerRead 0 3) = .next t ∧
      t.engine.txCursor ≠ (at' .epowerRead 0 3).engine.txCursor) ∧
    (∃ t, exec .stSpr (at' .epowerRead 0 3) = .next t ∧
      t.engine.mode ≠ (at' .epowerRead 0 3).engine.mode) ∧
    ∃ t, exec .stSpr writeL1 = .next t ∧ t.dev ≠ writeL1.dev := by
  refine ⟨⟨_, rfl, by decide, by decide⟩, ⟨_, rfl, ?_⟩, ⟨_, rfl, by decide⟩,
    ⟨_, rfl, by decide⟩, _, rfl, fun h => ?_⟩
  · unfold eventSra
    rw [decodeDevice_epower]
    exact ⟨by decide, by decide⟩
  · exact absurd (congrArg Devices.enable1Sent h) (by decide)

theorem witness_EventsEndWithFinishAndWriteAtMostOnce :
    ∃ t, exec .stDsa quiet = .next t ∧ t.irq.run = .running ∧
      t.env.calls.countP Call.isDatWrite ≠ 0 :=
  ⟨_, rfl, rfl, by decide⟩

theorem witness_WedgedEventsStopAtABlockingCall :
    (∃ t, exec .stDsa (answers (at' .passthroughRead 0 0) [] [.hang] []) = .next t ∧
      t.irq.run = .wedged) ∧
    (∃ t, exec .stSpr (answers (at' .passthroughWrite 2 0) [] [] [.hang]) = .next t ∧
      t.irq.run = .wedged) ∧
    (∃ t, exec (.stSra (addrByte Config.addrEpower 1#1)) (answers (latched 0x80#8) [.hang] [] []) =
      .next t ∧ t.irq.run = .wedged) ∧
    ∃ t, exec (.stSra (addrByte Config.addrPmic 1#1)) (answers (latched 0x80#8) [] [.hang] []) =
      .next t ∧ t.irq.run = .wedged := by
  refine ⟨⟨_, rfl, rfl⟩, ⟨_, rfl, rfl⟩, ⟨_, rfl, ?_⟩, _, rfl, ?_⟩ <;> unfold eventSra
  · rw [decodeDevice_epower]
    rfl
  · rw [decodeDevice_pmic]
    rfl

theorem witness_ReadVersionWritesTheVersionByte : quiet.irq.run = .running := rfl
theorem witness_ReadUidLoadsTheBufferAndWritesTheTopByte : quiet.irq.run = .running := rfl
theorem witness_UndefinedConstantReadsWriteOneDraw : quiet.irq.run = .running := rfl
theorem witness_SettingReadsAnswerTheStoredByteOrZero :
    quiet.irq.run = .running ∧ (0#6).toNat ≤ 6 ∧ (6#6).toNat ≤ 6 ∧ 7 ≤ (7#6).toNat ∧
      7 ≤ (63#6).toNat := by decide
theorem witness_TelemetryReadsSplitOneSampleOfTheirChannel :
    telemetry.irq.run = .running ∧
      (∀ ch ∈ [2, 1, 8, 10, 9], telemetry.adcAnswer ch = .sample 0x0123#16) ∧
      ∀ ch ∈ [2, 1, 8, 10, 9], (answers quiet [.hang] [] []).adcAnswer ch = .hang := by decide
theorem witness_UnmappedReadsDoNothing :
    quiet.irq.run = .running ∧ 5 ≤ (5#7).toNat ∧ 5 ≤ (122#7).toNat := by decide
theorem witness_ReservedReadsWriteTheSentinel : quiet.irq.run = .running := rfl
theorem witness_UidReadDeliversMostSignificantByteFirst :
    (latched 2#8).irq.run = .running ∧ decodeDevice (addrByte Config.addrEpower 1#1) = .epower ∧
      (latched 2#8).engine.rxCursor ≠ 0 ∧ (latched 2#8).engine.rxBuf[0] = 2#8 :=
  ⟨rfl, test_decodeDevice.2.1, by decide, rfl⟩
theorem witness_TelemetryReadDeliversOneSample :
    telemetry.irq.run = .running ∧ decodeDevice (addrByte Config.addrEpower 1#1) = .epower ∧
      telemetry.engine.rxCursor ≠ 0 ∧ telemetry.engine.txCursor = 0 ∧
      telemetry.engine.rxBuf[0].toNat = 128 + 0 ∧ telemetry.adcAnswer 2 = .sample 0x0123#16 :=
  ⟨rfl, test_decodeDevice.2.1, by decide, rfl, rfl, rfl⟩

theorem witness_RecognizedSettingWritesStoreAndDriveTheirSideChannel :
    quiet.irq.run = .running := rfl
theorem witness_UnrecognizedSettingWritesStoreNothing :
    quiet.irq.run = .running ∧ 7 ≤ (7#6).toNat ∧ 7 ≤ (63#6).toNat := by decide
theorem witness_WritesOutsideTheSettingsBandChangeNothing : quiet.irq.run = .running := rfl
theorem witness_SettingWriteThenReadAnswersTheValueWritten :
    quiet.irq.run = .running ∧ 64 ≤ (64#8).toNat ∧ (70#8).toNat ≤ 70 := by decide

theorem witness_ReadsAndBridgeLeaveTheDevicesAlone :
    (Instr.readReserved 251#8).format = .cmdRead ∧ Instr.ptLatch.format = .pt ∧
      (∃ t, exec (.readReserved 251#8) quiet = .next t) ∧ ∃ t, exec .ptLatch quiet = .next t :=
  ⟨rfl, rfl, ⟨_, rfl⟩, _, rfl⟩

theorem witness_PtWriteForwardsOneRegisterWrite :
    quiet.irq.run = .running ∧ (answers quiet [] [] [.ok]).vrmWriteAnswer ≠ .hang ∧
      (answers quiet [] [] [.err]).vrmWriteAnswer ≠ .hang ∧
      (answers quiet [] [] [.hang]).vrmWriteAnswer = .hang := by decide
theorem witness_PtReadProbeWritesThePlaceholder : quiet.irq.run = .running := rfl
theorem witness_BridgeReadsForwardTheByteOrNothing :
    quiet.irq.run = .running ∧ (answers quiet [] [.ok 7#8] []).vrmReadAnswer = .ok 7#8 ∧
      (answers quiet [] [.err] []).vrmReadAnswer = .err ∧
      (answers quiet [] [.hang] []).vrmReadAnswer = .hang := by decide
theorem witness_PtLatchChangesNothing : quiet.irq.run = .running := rfl
theorem witness_StSprRunsTheBridgeRowOfTheLatchedPayload :
    (at' .passthroughWrite 2 0).irq.run = .running ∧
      (at' .passthroughWrite 2 0).engine.mode = .passthroughWrite := by decide

theorem witness_InstallCreatesTheContextOnce :
    State.reset.irq.run = .running ∧ State.reset.irq.ctxInstalled = false ∧
      quiet.irq.run = .running ∧ quiet.irq.ctxInstalled = true := by decide
theorem witness_UnmaskNeedsTheContext :
    quiet.irq.run = .running ∧ quiet.irq.ctxInstalled = true ∧
      State.reset.irq.run = .running ∧ State.reset.irq.ctxInstalled = false := by decide
theorem witness_I2cDispatchRunsTheDecodedEvent :
    (withEvent quiet 0#8 0#8).irq.run = .running ∧
      (withEvent quiet 0#8 0#8).irq.ctxInstalled = true ∧
      (withEvent quiet 0#8 0#8).irq.irqMask = false ∧
      (withEvent quiet 0#8 0#8).irq.pendingI2c = true ∧
      (withEvent quiet 0#8 0#8).irq.i2cEvent = some (0#8, 0#8) := by decide
/-- For the three dispatches of the other sources. -/
theorem witness_ButtonDispatchLeavesTheEngineAlone :
    (allPending quiet).irq.run = .running ∧ (allPending quiet).irq.ctxInstalled = true ∧
      (allPending quiet).irq.irqMask = false ∧ 0 ∈ (allPending quiet).irq.pendingButtons := by
  decide
theorem witness_DispTimerDispatchChangesTheDisplayOnly :
    (allPending quiet).irq.run = .running ∧ (allPending quiet).irq.ctxInstalled = true ∧
      (allPending quiet).irq.irqMask = false ∧ (allPending quiet).irq.pendingDisp = true := by
  decide

/-- With the given coming effect of the telemetry timer's handler. -/
def telemFx (e : TelemEffect) : State :=
  { allPending quiet with env := { quiet.env with telemFx := [e] } }

theorem witness_TelemTimerDispatchChangesTheDisplayOrWedges :
    (telemFx (.done (Vector.replicate 8 1#8))).irq.run = .running ∧
      (telemFx (.done (Vector.replicate 8 1#8))).irq.ctxInstalled = true ∧
      (telemFx (.done (Vector.replicate 8 1#8))).irq.irqMask = false ∧
      (telemFx (.done (Vector.replicate 8 1#8))).irq.pendingTelem = true ∧
      (telemFx (.done (Vector.replicate 8 1#8))).telemEffect = .done (Vector.replicate 8 1#8) ∧
      (telemFx (.hang (Vector.replicate 8 1#8))).telemEffect = .hang (Vector.replicate 8 1#8) :=
  ⟨rfl, rfl, rfl, rfl, rfl, rfl⟩

theorem witness_DispatchNeedsContextUnmaskedAndPending :
    State.reset.irq.run = .running ∧ State.reset.irq.ctxInstalled = false ∧
      State.reset.irq.irqMask = true ∧ quiet.irq.isPending .telemTimer = false := by decide

theorem witness_StoppedRunsHaveNoStep :
    quiet.wedge.irq.run = .wedged ∧ quiet.raiseFatal.irq.run = .fatal := by decide

theorem witness_StepRunsTheDispatchedInstruction :
    (moving (allPending quiet) (.dispatch .dispTimer)).irq.run = .running ∧
      (moving (allPending quiet) (.dispatch .dispTimer)).env.schedule =
        [.dispatch .dispTimer] ∧
      (moving (allPending quiet) (.dispatch .dispTimer)).irq.enables .dispTimer = true ∧
      (moving quiet (.dispatch .dispTimer)).irq.enables .dispTimer = false :=
  ⟨rfl, rfl, rfl, rfl⟩

theorem witness_StartupRunsInTheOrderOfBoot :
    State.reset.irq.run = .running ∧ State.reset.env.schedule = [] ∧
      State.reset.env.startup = .peripherals ∧
      (State.reset.setStartup .install).env.startup = .install ∧
      (State.reset.setStartup .unmask).env.startup = .unmask := ⟨rfl, rfl, rfl, rfl, rfl⟩

/-- The bus presents an event next. -/
def bus (s : State) (flag : Bool) : State :=
  { moving s (.bus 0#8 0#8) with ctl := { s.ctl with intFlag := flag } }

theorem witness_BusPresentsOnlyWhenNothingIsOutstanding :
    (bus quiet false).irq.run = .running ∧ (bus quiet false).env.schedule = [.bus 0#8 0#8] ∧
      (bus quiet false).ctl.enabled = true ∧ (bus quiet false).ctl.intFlag = false ∧
      (bus quiet false).irq.pendingI2c = false ∧ (bus quiet false).irq.i2cEvent = none ∧
      (bus State.reset false).ctl.enabled = false ∧ (bus quiet true).ctl.intFlag = true ∧
      (bus (withEvent quiet 0#8 0#8) true).irq.pendingI2c = true ∧
      (bus (withEvent quiet 0#8 0#8) true).irq.i2cEvent ≠ none :=
  ⟨rfl, rfl, rfl, rfl, rfl, rfl, rfl, rfl, rfl, by decide⟩

theorem witness_SourcesLatchAndArrivalsMerge :
    (moving (allPending quiet) (.buttonEdge 0)).irq.run = .running ∧
      (moving (allPending quiet) (.buttonEdge 0)).env.schedule = [.buttonEdge 0] ∧
      Source.button 0 ≠ .i2c ∧ 0 < Config.nButton ∧
      (moving (allPending quiet) (.buttonEdge 0)).irq.isPending (.button 0) = true ∧
      (moving (allPending quiet) (.buttonEdge 0)).irq.ButtonsOk ∧
      (moving quiet .dispTick).env.schedule = [.dispTick] ∧
      (moving quiet .telemTick).env.schedule = [.telemTick] :=
  ⟨rfl, rfl, by decide, nButton_pos, rfl,
    ⟨by decide, fun k hk => by simp [moving, allPending] at hk; exact hk ▸ nButton_pos⟩, rfl, rfl⟩

theorem witness_PendingSourcesAreNeverLost :
    (moving (allPending quiet) .telemTick).irq.isPending .dispTimer = true ∧
      (∃ t, step (moving (allPending quiet) .telemTick) = .next t) ∧
      (moving (allPending quiet) .telemTick).nextMove ≠ .dispatch .dispTimer :=
  ⟨rfl, ⟨_, rfl⟩, by decide⟩

/-- A startup that has not installed the context, with an engine that is not fresh. -/
def uninstalled : State := { moving State.reset .startup with
  engine := engineAt .idle 1 0
  env := { (moving State.reset .startup).env with startup := .install } }

theorem witness_EngineChangesOnlyByI2cDispatchOrInstall :
    ∃ t, step uninstalled = .next t ∧ t.engine ≠ uninstalled.engine :=
  ⟨_, rfl, fun h => absurd (congrArg Engine.rxCursor h) (by decide)⟩

theorem witness_StartIsSetOnlyByUnhandledStatusAndNeverCleared :
    (∃ t, step (moving { quiet with ctl := { quiet.ctl with start := true } } .telemTick) =
      .next t) ∧ quiet.env.startup ≠ .peripherals ∧ quiet.ctl.ackEnable = true ∧
      quiet.ctl.start = false ∧
      ∃ t, step (moving (withEvent quiet otherCode 0#8) (.dispatch .i2c)) = .next t ∧
        t.ctl.start = true := by
  refine ⟨⟨_, rfl⟩, by decide, rfl, rfl, (i2cAction otherCode 0#8
    ((withEvent quiet otherCode 0#8).enterHandler .i2c)).andThen State.leaveHandler, rfl, ?_⟩
  rw [i2cDispatch_eq, classOf_of_not_named otherCode_not_named]
  rfl

/-- A booted block with the bus not stalled, in the middle of a read. -/
def calm : State := { at' .epowerRead 1 0 with ctl := { quiet.ctl with intFlag := false } }

theorem calm_inv : calm.Inv :=
  ⟨Memory.wf_nil, fun h => absurd rfl h,
    ⟨rfl, fun _ h => absurd h.symm (Option.some_ne_none _), by decide, by decide⟩,
    ⟨List.Pairwise.nil, fun _ h => absurd h List.not_mem_nil⟩, rfl, rfl, fun _ => rfl⟩

/-- Without an event outstanding, and with one, whose code and byte the controller's registers hold. -/
theorem witness_EveryStepKeepsTheInvariant :
    (moving calm .dispTick).Inv ∧ (∃ t, step (moving calm .dispTick) = .next t) ∧
      (moving (withEvent calm 7#8 9#8) .dispTick).Inv ∧
      ∃ t, step (moving (withEvent calm 7#8 9#8) .dispTick) = .next t :=
  ⟨calm_inv, ⟨_, rfl⟩,
    ⟨calm_inv.1, calm_inv.2.1, ⟨rfl, fun _ h => (Option.some.inj h).symm, by decide, by decide⟩,
      calm_inv.2.2.2.1, rfl, rfl, fun _ => rfl⟩, _, rfl⟩

theorem witness_RunningStepsNeverStopAndAreNeverFatal :
    calm.Inv ∧ calm.irq.run = .running := ⟨calm_inv, rfl⟩

/-- A pass-through read whose next byte never comes. -/
def stuckRead : State := moving (withEvent (answers (at' .passthroughRead 0 0) [] [.hang] [])
  Config.stDsa 0#8) (.dispatch .i2c)

theorem witness_OnlyUnansweredCallsWedge :
    (∃ t, step { telemFx (.hang (Vector.replicate 8 1#8)) with
        env := { (telemFx (.hang (Vector.replicate 8 1#8))).env with
          schedule := [.dispatch .telemTimer] } } = .next t ∧ t.irq.run = .wedged) ∧
      ∃ t, step stuckRead = .next t ∧ t.irq.run = .wedged := by
  refine ⟨⟨_, rfl, rfl⟩, (i2cAction Config.stDsa 0#8
    (stuckRead.tookMove.enterHandler .i2c)).andThen State.leaveHandler, rfl, ?_⟩
  rw [i2cDispatch_eq, classOf_stDsa]
  rfl

theorem witness_SettingTransactionsRoundTrip :
    quiet.irq.run = .running ∧ 64 ≤ (64#8).toNat ∧ (70#8).toNat ≤ 70 := by decide

/-- Every collaborator has an answer ready. -/
def answered : State :=
  { moving calm .dispTick with
    env := { (moving calm .dispTick).env with
      adc := [.sample 0#16], vrmRead := [.err], vrmWrite := [.ok]
      telemFx := [.done (Vector.replicate 8 0#8)] } }

theorem witness_AnsweredStepsDoNotWedge :
    answered.CollaboratorsAnswer 1 ∧ (∃ t, step answered = .next t) ∧
      answered.irq.run ≠ .wedged ∧ ∃ t, Host.Core.run core 1 answered = .next t :=
  ⟨⟨⟨Nat.le_refl 1, by decide⟩, ⟨Nat.le_refl 1, by decide⟩, ⟨Nat.le_refl 1, by decide⟩,
    Nat.le_refl 1, by simp [answered]⟩, ⟨_, rfl⟩, by decide, _, rfl⟩

/-- R32, R34, R37: an event presented puts its code into the status register, its byte into the data
register. -/
theorem test_present_registers :
    look (step (moving calm (.bus 0x5A#8 0x70#8))) (fun t => (t.ctl.status, t.ctl.data)) =
      some (0x5A#8, 0x70#8) := rfl

/-- R62: after a bridge read that failed, the byte clocked in and the data register are one draw. -/
theorem test_silent_step_leaves_a_draw :
    look (exec .stDsa (answers (at' .passthroughRead 0 0) [] [.err] []))
      (fun t => (t.env.hostByte, t.ctl.data)) =
      some (some (Config.drawU8 14), Config.drawU8 14) := rfl

/-- R97, R98: the events of `READ 41, 2`, with the event of its final STOP and without it. -/
theorem test_readIdiom_events (stopSeen : Bool) :
    (readIdiom 0x41#8 1 stopSeen).flatMap Segment.events =
      [.stSwa (addrByte Config.addrEpower 0#1), .stDra 0x41#8, .stSpr,
        .stSra (addrByte Config.addrEpower 1#1), .stDsa, .stDsn] ++
      if stopSeen then [.stSpr] else [] := by cases stopSeen <;> rfl

/-- The given moves come next, from a booted block with the bus not stalled. -/
def listed (ms : List Move) : State := { calm with env := { calm.env with schedule := ms } }

/-- R261: nothing pending and a timer's tick to come: complete for that step. -/
theorem test_complete : (listed [.dispTick]).Complete 1 := ⟨rfl, rfl, rfl, rfl, rfl⟩

/-- R261: with no move listed, a free move of the bus is a further event, and the run not complete. -/
theorem test_freeMoveIsFurtherEvent (status dat : Byte)
    (h : Config.freeMove calm.env.draws = .bus status dat) : ¬ calm.Complete 1 := by
  intro hc
  have hp : calm.presents = some (decodeStatus status dat) := by
    have hm : calm.nextMove = .bus status dat := h
    unfold State.presents
    rw [hm]
    rfl
  exact absurd ((eventsPresented_one rfl hp).symm.trans hc.2.2.2.2) (by simp)

/-- An `ST_SWA` is outstanding, its dispatch comes next, and then the given move of the bus. -/
def offered (dat x y : Byte) : State :=
  (listed [.dispatch .i2c, .bus x y]).present Config.stSwa dat

/-- A served `ST_SWA` frees the bus, so that its next move presents an event. -/
theorem offered_events (dat x y : Byte) :
    eventsPresented 2 (offered dat x y) = [decodeStatus x y] := by
  have first : step (offered dat x y) = .next ((i2cAction Config.stSwa dat
    ((offered dat x y).tookMove.enterHandler .i2c)).andThen State.leaveHandler) := rfl
  rw [i2cDispatch_eq, classOf_stSwa, if_pos (by rfl)] at first
  rw [eventsPresented_succ 1 first, eventsPresented_one (i := decodeStatus x y) rfl rfl]
  rfl

/-- R98: the first two events of `READ 41, 2`, each served before the next, are well-formed traffic.
-/
theorem test_wellFormedTraffic :
    (listed [.bus Config.stSwa (addrByte Config.addrEpower 0#1), .dispatch .i2c,
      .bus Config.stDra 0x41#8]).WellFormedTraffic 3 := by
  refine ⟨readIdiom 0x41#8 1 false, ?_⟩
  rw [eventsPresented_succ 2 (t := offered (addrByte Config.addrEpower 0#1) Config.stDra 0x41#8) rfl,
    offered_events]
  show [decodeStatus _ _, decodeStatus _ _] <+: _
  simp [decodeStatus, readIdiom, Segment.events, Target.addr]

/-- R98, R217: a STOP that the stalled bus cannot present is no event, so that the engine is given a
write and then a read with no STOP between: no well-formed traffic. -/
theorem test_malformedTraffic :
    ¬ (listed [.bus Config.stSwa 0#8, .bus Config.stSpr 0#8, .dispatch .i2c,
      .bus Config.stSra 0#8]).WellFormedTraffic 4 := by
  rintro ⟨segs, h⟩
  rw [eventsPresented_succ 3 (t := (listed [.bus Config.stSpr 0#8, .dispatch .i2c,
      .bus Config.stSra 0#8]).present Config.stSwa 0#8) rfl,
    eventsPresented_succ 2 (t := offered 0#8 Config.stSra 0#8) rfl, offered_events] at h
  have h : [decodeStatus Config.stSwa 0#8, decodeStatus Config.stSra 0#8] <+: _ := h
  simp only [decodeStatus, classOf_stSwa, classOf_stSra] at h
  cases segs with
  | nil => simp at h
  | cons g gs =>
    cases g with
    | write dev bytes => cases bytes <;> simp [Segment.events] at h
    | read dev acks stopSeen => simp [Segment.events] at h

end Sys2Proof.Tests
end

section
/-! Proofs about the state (10_state.md), 1. The dispatcher's registers: the list of pending buttons,
what an acknowledgement leaves, which moves are listed, and how a dispatch ends (43_dispatcher.md
R192, R197). -/

namespace Sys2Proof.Machine

variable {s t u : State} {d : Dispatcher} {src : Source}

/-! ### The list of pending buttons -/

theorem mem_insertNat {j k : Nat} {l : List Nat} : j ∈ insertNat k l ↔ j = k ∨ j ∈ l := by
  induction l with
  | nil => simp [insertNat]
  | cons i l ih =>
    unfold insertNat
    split_ifs with hlt heq
    · simp
    · simp [heq]
    · simp only [List.mem_cons, ih]
      tauto

theorem insertNat_rising (k : Nat) {l : List Nat} (h : l.Pairwise (· < ·)) :
    (insertNat k l).Pairwise (· < ·) := by
  induction l with
  | nil => simp [insertNat]
  | cons i l ih =>
    obtain ⟨hi, hl⟩ := List.pairwise_cons.1 h
    unfold insertNat
    split_ifs with hlt heq
    · refine List.pairwise_cons.2 ⟨fun j hj => ?_, h⟩
      rcases List.mem_cons.1 hj with rfl | hj
      · exact hlt
      · exact hlt.trans (hi j hj)
    · exact h
    · refine List.pairwise_cons.2 ⟨fun j hj => ?_, ih hl⟩
      rcases mem_insertNat.1 hj with rfl | hj
      · omega
      · exact hi j hj

/-- A second arrival merges with the first (R218). -/
theorem insertNat_of_mem {k : Nat} {l : List Nat} (h : l.Pairwise (· < ·)) (hk : k ∈ l) :
    insertNat k l = l := by
  induction l with
  | nil => simp at hk
  | cons i l ih =>
    obtain ⟨hi, hl⟩ := List.pairwise_cons.1 h
    unfold insertNat
    rcases List.mem_cons.1 hk with rfl | hk
    · simp
    · have : i < k := hi k hk
      rw [if_neg (by omega), if_neg (by omega), ih hl hk]

/-! ### Latching and acknowledging a source -/

theorem Dispatcher.latch_keeps_pending {src' : Source} (h : d.isPending src = true) :
    (d.latch src').isPending src = true := by
  cases src' with
  | i2c => exact h
  | button j =>
    cases src with
    | button k =>
      have hk : k ∈ d.pendingButtons := of_decide_eq_true h
      simp [Dispatcher.isPending, Dispatcher.latch, mem_insertNat, hk]
    | _ => exact h
  | dispTimer => cases src <;> first | exact h | rfl
  | telemTimer => cases src <;> first | exact h | rfl

/-- The acknowledgement of one source leaves every other one pending (R192). -/
theorem Dispatcher.acknowledge_keeps_pending {src' : Source} (hne : src' ≠ src)
    (h : d.isPending src = true) : (d.acknowledge src').isPending src = true := by
  cases src' with
  | button j =>
    cases src with
    | button k =>
      have hk : k ∈ d.pendingButtons := of_decide_eq_true h
      have hkj : k ≠ j := fun he => hne (he ▸ rfl)
      simp [Dispatcher.isPending, Dispatcher.acknowledge, hk, hkj]
    | _ => exact h
  | _ => cases src <;> first | exact h | exact absurd rfl hne

@[simp] theorem Dispatcher.acknowledge_ctxInstalled :
    (d.acknowledge src).ctxInstalled = d.ctxInstalled := by cases src <;> rfl
@[simp] theorem Dispatcher.acknowledge_i2cEvent :
    (d.acknowledge src).i2cEvent = d.i2cEvent := by cases src <;> rfl
@[simp] theorem Dispatcher.acknowledge_run : (d.acknowledge src).run = d.run := by
  cases src <;> rfl
@[simp] theorem Dispatcher.acknowledge_pendingI2c_self :
    (d.acknowledge .i2c).pendingI2c = false := rfl

theorem Dispatcher.acknowledge_pendingI2c (h : src ≠ .i2c) :
    (d.acknowledge src).pendingI2c = d.pendingI2c := by
  cases src <;> first | rfl | exact absurd rfl h

theorem Dispatcher.acknowledge_pendingButtons :
    (d.acknowledge src).pendingButtons.Sublist d.pendingButtons := by
  cases src with
  | button k => exact List.filter_sublist
  | i2c => exact .refl _
  | dispTimer => exact .refl _
  | telemTimer => exact .refl _

/-! ### Stopped runs -/

/-- Every operation looks at the run status first (R33, R210). -/
theorem exec_eq_ifRunning (i : Instr) (s : State) : ∃ o, exec i s = ifRunning s o := by
  cases i with
  | irqI2c =>
    cases he : s.irq.i2cEvent with
    | some e => exact ⟨_, exec_irqI2c_of_event he⟩
    | none => exact ⟨_, by simp only [exec, execIrqI2c, he]; rfl⟩
  | _ => exact ⟨_, rfl⟩

/-- A listed move is the next step's (log entry 4). -/
theorem step_of_listed {m : Move} {ms : List Move} (hr : s.irq.run = .running)
    (hq : s.env.schedule = m :: ms) :
    step s = runMove m { s with env := { s.env with schedule := ms } } := by
  simp only [step, State.nextMove, State.tookMove, ifRunning_running hr, hq]

/-! ### How a dispatch ends -/

/-- The end of the dispatch of `src`, enabled in `u`: another source's handler returns; the event of
an I2C dispatch is over; or a call is never answered, and the mask is held with the controller as it
was (R192, R193, R117). -/
inductive Returned (src : Source) (u t : State) : Prop
  | other : src ≠ .i2c → t.ctl = u.ctl →
      t.irq = { u.irq.acknowledge src with irqMask := false } → Returned src u t
  | event : src = .i2c → t.ctl.intFlag = false → t.ctl.ackEnable = true →
      (t.ctl.start = u.ctl.start ∨ ∃ e, u.irq.i2cEvent = some e ∧ classOf e.1 = .other) →
      (u.ctl.start = true → t.ctl.start = true) →
      t.irq = { u.irq.acknowledge src with irqMask := false, i2cEvent := none } → Returned src u t
  | hung : t.ctl = u.ctl →
      t.irq = { u.irq.acknowledge src with irqMask := true, run := .wedged } → Returned src u t

/-- What a dispatch of `src`, enabled in `u`, does to the parts that the invariant speaks of. -/
structure Handled (src : Source) (u t : State) : Prop where
  enabled : t.ctl.enabled = u.ctl.enabled
  startup : t.env.startup = u.env.startup
  settings : Memory.wf u.dev.settings → Memory.wf t.dev.settings
  uid : u.engine.UidQueued → t.engine.UidQueued
  returned : Returned src u t

theorem handled_i2c {status dat : Byte} (hr : u.irq.run = .running)
    (he : u.irq.i2cEvent = some (status, dat)) :
    Handled .i2c u ((i2cAction status dat (u.enterHandler .i2c)).andThen State.leaveHandler) := by
  have keeps := keeps_engineStep (classOf status) dat (u.enterHandler .i2c)
  have ended := engineStep_ended (s := u.enterHandler .i2c) (classOf status) dat hr
  rw [i2cDispatch_eq]
  generalize engineStep (classOf status) dat (u.enterHandler .i2c) = v at keeps ended ⊢
  cases ended with
  | full cs hirq hack hflag hstart =>
    rw [if_pos (by rw [hirq]; exact hr)]
    refine ⟨keeps.enabled, keeps.startup, keeps.settings, keeps.uid,
      .event rfl hflag hack ?_ ?_ (by simp [hirq])⟩
    · exact hstart.imp id fun ⟨hcls, _⟩ => ⟨_, he, hcls⟩
    · rcases hstart with hstart | ⟨-, hstart⟩
      · exact hstart.trans
      · exact fun _ => hstart
  | blocked c n _ hirq hctl =>
    rw [if_neg (by simp [hirq])]
    exact ⟨keeps.enabled, keeps.startup, keeps.settings, keeps.uid, .hung hctl hirq⟩

theorem handled_button (k : Nat) (u : State) :
    Handled (.button k) u (buttonAction k (u.enterHandler (.button k))).leaveHandler :=
  ⟨rfl, rfl, settingsAfter_wf _, id, .other (by simp) rfl rfl⟩

theorem handled_dispTimer (u : State) :
    Handled .dispTimer u (dispAction (u.enterHandler .dispTimer)).leaveHandler :=
  ⟨rfl, rfl, id, id, .other (by simp) rfl rfl⟩

theorem handled_telemTimer (hr : u.irq.run = .running) :
    Handled .telemTimer u
      ((telemAction (u.enterHandler .telemTimer)).andThen State.leaveHandler) := by
  unfold telemAction
  cases (u.enterHandler .telemTimer).telemEffect with
  | done d =>
    rw [State.andThen_running (by exact hr)]
    exact ⟨rfl, rfl, id, id, .other (by simp) rfl rfl⟩
  | hang d =>
    rw [State.andThen_stopped (by simp)]
    exact ⟨rfl, rfl, id, id, .hung rfl rfl⟩

end Sys2Proof.Machine
end

section
/-! Proofs about the state, 2. Each agent's move keeps the machine's invariant (10_state.md R29 to
R33). -/

namespace Sys2Proof.Machine

variable {s t u : State} {src : Source}

theorem inv_tookMove (h : s.Inv) : s.tookMove.Inv := by
  unfold State.tookMove
  split <;> exact h

/-- Before the interface is set up no event is outstanding, so clearing the flag agrees. -/
theorem inv_initPeripherals (hp : u.env.startup = .peripherals) (h : u.Inv) :
    (u.initPeripherals.setStartup .install).Inv := by
  obtain ⟨hwf, huid, ⟨-, -, disabled, pending⟩, hbuttons, henabled, hctx, hmask⟩ := h
  obtain ⟨hnone, hi2c⟩ := disabled (by simp [henabled, hp])
  refine ⟨hwf, huid, ⟨?_, ?_, ?_, pending⟩, hbuttons, rfl, ?_, ?_⟩
  · simp [hnone]
  · simp [hnone]
  · simp
  · simpa [hp] using hctx
  · simpa [hp] using hmask

/-- The startup order allows one `INSTALL` only (R190). -/
theorem inv_installContext (hp : u.env.startup = .install) (h : u.Inv) :
    (installContext (u.setStartup .unmask)).Inv := by
  obtain ⟨hwf, -, hevent, hbuttons, henabled, hctx, hmask⟩ := h
  have hnot : u.irq.ctxInstalled = false := by simpa [hp] using hctx
  rw [installContext, if_neg (by simp [hnot])]
  refine ⟨hwf, fun hz => absurd rfl hz, hevent, hbuttons, ?_, rfl, ?_⟩
  · simpa [hp] using henabled
  · simpa [hp] using hmask

theorem inv_unmaskInterrupts (hr : u.irq.run = .running) (hp : u.env.startup = .unmask)
    (h : u.Inv) : (u.setStartup .idle).unmaskInterrupts.Inv := by
  obtain ⟨hwf, huid, hevent, hbuttons, henabled, hctx, -⟩ := h
  refine ⟨hwf, huid, hevent, hbuttons, ?_, ?_, ?_⟩
  · simpa [hp] using henabled
  · simpa [hp] using hctx
  · simp [hr]

/-- The bus presents an event only with the interface set up. -/
theorem inv_present (status dat : Byte) (hb : u.busFree = true) (h : u.Inv) :
    (u.present status dat).Inv := by
  obtain ⟨hwf, huid, -, hbuttons, hstartup⟩ := h
  simp only [State.busFree, Bool.and_eq_true] at hb
  obtain ⟨⟨⟨hon, -⟩, -⟩, -⟩ := hb
  exact ⟨hwf, huid, ⟨rfl, fun e he => (Option.some.inj he).symm, by simp [hon], fun _ => rfl⟩,
    hbuttons, hstartup⟩

theorem inv_latch (hsrc : ∀ k, src = .button k → k < Config.nButton) (h : u.Inv) :
    (u.latch src).Inv := by
  obtain ⟨hwf, huid, hevent, ⟨hrising, hexist⟩, hstartup⟩ := h
  cases src with
  | button k =>
    refine ⟨hwf, huid, hevent, ⟨insertNat_rising k hrising, fun j hj => ?_⟩, hstartup⟩
    rcases mem_insertNat.1 hj with rfl | hj
    · exact hsrc j rfl
    · exact hexist j hj
  | _ => exact ⟨hwf, huid, hevent, ⟨hrising, hexist⟩, hstartup⟩

/-! ### A dispatch -/

theorem Handled.eventOk (h : Handled src u t) (hu : u.EventOk) : t.EventOk := by
  obtain ⟨flag, registers, disabled, pending⟩ := hu
  cases h.returned with
  | other hsrc hctl hirq =>
    have hi2c := Dispatcher.acknowledge_pendingI2c (d := u.irq) hsrc
    simp only [State.EventOk, hctl, hirq, Dispatcher.acknowledge_i2cEvent,
      Dispatcher.acknowledge_run, hi2c]
    exact ⟨flag, registers, disabled, pending⟩
  | event hsrc hflag _ _ _ hirq => simp [State.EventOk, hirq, hflag, hsrc]
  | hung hctl hirq =>
    refine ⟨?_, ?_, fun hoff => ?_, by simp [hirq]⟩
    · simpa [hctl, hirq] using flag
    · simpa [hctl, hirq] using registers
    · obtain ⟨hnone, hi2c⟩ := disabled (by simpa [hctl] using hoff)
      by_cases hsrc : src = .i2c
      · simp [hirq, hnone, hsrc]
      · simp [hirq, hnone, hi2c, Dispatcher.acknowledge_pendingI2c hsrc]

theorem Handled.pendingButtons (h : Handled src u t) :
    t.irq.pendingButtons.Sublist u.irq.pendingButtons := by
  have hack := Dispatcher.acknowledge_pendingButtons (d := u.irq) (src := src)
  cases h.returned with
  | other _ _ hirq => exact hirq ▸ hack
  | event _ _ _ _ _ hirq => exact hirq ▸ hack
  | hung _ hirq => exact hirq ▸ hack

theorem Handled.buttonsOk (h : Handled src u t) (hu : u.irq.ButtonsOk) : t.irq.ButtonsOk := by
  obtain ⟨hrising, hexist⟩ := hu
  exact ⟨hrising.sublist h.pendingButtons, fun k hk => hexist k (h.pendingButtons.subset hk)⟩

/-- An enabled dispatch finds the startup done; the mask is held only where the run wedges. -/
theorem Handled.startupOk (h : Handled src u t) (hr : u.irq.run = .running)
    (he : u.irq.enables src = true) (hu : u.StartupOk) : t.StartupOk := by
  obtain ⟨henabled, hctx, hmask⟩ := hu
  obtain ⟨-, hopen, -⟩ := Dispatcher.enables_iff.1 he
  have hidle : u.env.startup = .idle := by simpa [hr, hopen] using hmask
  refine ⟨by rw [h.enabled, h.startup, henabled], ?_, fun _ => ?_⟩
  · rw [h.startup, ← hctx]
    cases h.returned with
    | other _ _ hirq => simp [hirq]
    | event _ _ _ _ _ hirq => simp [hirq]
    | hung _ hirq => simp [hirq]
  · cases h.returned with
    | other _ _ hirq => simp [hirq, h.startup, hidle, hr]
    | event _ _ _ _ _ hirq => simp [hirq, h.startup, hidle, hr]
    | hung _ hirq => simp [hirq]

theorem Handled.inv (h : Handled src u t) (hr : u.irq.run = .running)
    (he : u.irq.enables src = true) (hu : u.Inv) : t.Inv := by
  obtain ⟨hwf, huid, hevent, hbuttons, hstartup⟩ := hu
  exact ⟨h.settings hwf, h.uid huid, h.eventOk hevent, h.buttonsOk hbuttons,
    h.startupOk hr he hstartup⟩

/-- Whatever agent moves. -/
theorem Moved.inv {m : Move} (hm : Moved m u t) (hr : u.irq.run = .running) (h : u.Inv) :
    t.Inv := by
  cases hm with
  | idle => exact h
  | peripherals _ hp => exact inv_initPeripherals hp h
  | install _ hp => exact inv_installContext hp h
  | unmask _ hp _ => exact inv_unmaskInterrupts hr hp h
  | present status dat _ hb => exact inv_present status dat hb h
  | latch src _ hsrc _ _ => exact inv_latch hsrc h
  | i2c status dat _ he hv => exact (handled_i2c hr hv).inv hr he h
  | button k _ he => exact (handled_button k u).inv hr he h
  | dispTimer _ he => exact (handled_dispTimer u).inv hr he h
  | telemTimer _ he => exact (handled_telemTimer hr).inv hr he h

/-- Settles O56: each agent's move keeps the invariant. -/
theorem everyStepKeepsTheInvariant : Obligations.EveryStepKeepsTheInvariant := by
  intro s t h hs
  obtain ⟨hr, hm⟩ := step_moved hs
  exact hm.inv (by simpa using hr) (inv_tookMove h)

/-- Settles O55: at reset nothing is listed, queued, outstanding or pending. -/
theorem resetMeetsTheInvariant : Obligations.ResetMeetsTheInvariant :=
  ⟨Memory.wf_nil, fun hz => absurd rfl hz, ⟨rfl, by simp [State.reset], by decide, by decide⟩,
    ⟨.nil, by simp [State.reset]⟩, rfl, rfl, fun _ => rfl⟩

end Sys2Proof.Machine
end

section
/-! Proofs about the state, 3. Reset, stopped runs, wedged events, arrivals, pending sources and the
controller's flags. -/

namespace Sys2Proof.Machine

variable {s t u : State} {src : Source}

/-- Settles O53: the settings list is empty at reset, so every setting reads as its initial value. -/
theorem resetLeavesTheSpecsValues : Obligations.ResetLeavesTheSpecsValues := by
  refine ⟨rfl, rfl, rfl, rfl, rfl, ⟨rfl, rfl, rfl, rfl⟩, rfl, rfl, fun id hid => ?_⟩
  simp [settingAt, State.reset, Memory.initial, hid]

/-- Settles O45: every operation and every step looks at the run status first. -/
theorem stoppedRunsHaveNoStep : Obligations.StoppedRunsHaveNoStep := by
  intro i s
  obtain ⟨o, ho⟩ := exec_eq_ifRunning i s
  rw [ho]
  exact ⟨fun h => ⟨ifRunning_wedged h _, ifRunning_wedged h _⟩,
    fun h => ⟨ifRunning_fatal h _, ifRunning_fatal h _⟩⟩

/-! ### Wedged events -/

theorem addr7_of_decodeDevice_epower {dat : Byte} (h : decodeDevice dat = .epower) :
    addr7 dat = Config.addrEpower := by
  unfold decodeDevice at h
  split_ifs at h with he
  exact he

theorem addr7_of_decodeDevice_pmic {dat : Byte} (h : decodeDevice dat = .pmic) :
    addr7 dat = Config.addrPmic := by
  unfold decodeDevice at h
  split_ifs at h with he hp
  exact hp

/-- `ST_SRA` has entered the read mode of its address when it makes its call (R115). -/
theorem engineAtCall_sra {dat : Byte} (h : decodeDevice dat ≠ .none) (e : Engine) :
    addr7 dat = Config.addrEpower ∧ engineAtCall .sra dat e = { e with mode := .epowerRead } ∨
      addr7 dat = Config.addrPmic ∧
        engineAtCall .sra dat e = { e with mode := .passthroughRead } := by
  cases hd : decodeDevice dat with
  | epower => exact .inl ⟨addr7_of_decodeDevice_epower hd, by simp [engineAtCall, hd]⟩
  | pmic => exact .inr ⟨addr7_of_decodeDevice_pmic hd, by simp [engineAtCall, hd]⟩
  | none => exact absurd hd h

/-- Settles O18: an event ends in full, and then the run goes on, or at its blocking call. -/
theorem wedgedEventsStopAtABlockingCall : Obligations.WedgedEventsStopAtABlockingCall := by
  intro i s t hf hx hw
  obtain ⟨hr, cls, dat, rfl, rfl⟩ := exec_status_eq_next hf hx
  have ended := engineStep_ended cls dat hr
  generalize engineStep cls dat s = t at hw ended ⊢
  cases ended with
  | full cs hirq => simp [hirq, hr] at hw
  | blocked c n hcls hirq hctl hdev heng hcalls hdraws hnever =>
    refine ⟨⟨c, n, hcalls, State.neverAnswers_blocking hnever, hdraws, hnever⟩, hctl, hdev, hirq,
      ?_⟩
    rcases hcls with rfl | rfl | ⟨rfl, hd⟩
    · exact .inl ⟨.inl rfl, heng⟩
    · exact .inl ⟨.inr rfl, heng⟩
    · exact .inr ⟨dat, rfl, heng ▸ engineAtCall_sra hd s.engine⟩

/-! ### Arrivals and pending sources -/

/-- Settles O49: the list of pending buttons after an edge is the sorted insertion. -/
theorem sourcesLatchAndArrivalsMerge : Obligations.SourcesLatchAndArrivalsMerge := by
  intro ms s hr
  refine ⟨fun hq => step_of_listed hr hq, fun hq => step_of_listed hr hq, fun k hk hq =>
    ⟨insertNat k s.irq.pendingButtons, ?_, mem_insertNat.2 (.inl rfl), fun j hj => ?_,
      fun ⟨hrising, _⟩ => ⟨insertNat_rising k hrising, insertNat_of_mem hrising⟩⟩⟩
  · rw [step_of_listed hr hq]
    exact congrArg Host.Outcome.next (if_pos hk)
  · simp [mem_insertNat, hj]

/-- A dispatch takes its own source only. -/
theorem Handled.isPending {src' : Source} (h : Handled src' u t) (hne : src' ≠ src)
    (hp : u.irq.isPending src = true) : t.irq.isPending src = true := by
  have hack := Dispatcher.acknowledge_keeps_pending hne hp
  cases h.returned with
  | other _ _ hirq => rw [hirq]; cases src <;> exact hack
  | event _ _ _ _ _ hirq => rw [hirq]; cases src <;> exact hack
  | hung _ hirq => rw [hirq]; cases src <;> exact hack

theorem Moved.isPending {m : Move} (hm : Moved m u t) (hr : u.irq.run = .running)
    (hne : m ≠ .dispatch src) (hp : u.irq.isPending src = true) : t.irq.isPending src = true := by
  cases hm with
  | idle => exact hp
  | peripherals _ _ => exact hp
  | install _ _ =>
    unfold installContext
    split_ifs <;> cases src <;> exact hp
  | unmask _ _ _ => cases src <;> exact hp
  | present status dat _ _ => cases src <;> first | exact hp | rfl
  | latch src' _ _ _ _ => exact Dispatcher.latch_keeps_pending hp
  | i2c status dat hm _ hv => exact (handled_i2c hr hv).isPending (fun h => hne (h ▸ hm)) hp
  | button k hm _ => exact (handled_button k u).isPending (fun h => hne (h ▸ hm)) hp
  | dispTimer hm _ => exact (handled_dispTimer u).isPending (fun h => hne (h ▸ hm)) hp
  | telemTimer hm _ => exact (handled_telemTimer hr).isPending (fun h => hne (h ▸ hm)) hp

/-- Settles O50: arrivals only add pending sources, and a dispatch takes its own only. -/
theorem pendingSourcesAreNeverLost : Obligations.PendingSourcesAreNeverLost := by
  intro src s t hp hs hne
  obtain ⟨hr, hm⟩ := step_moved hs
  exact hm.isPending (by simpa using hr) hne (by simpa using hp)

/-! ### START and acknowledge-enable -/

/-- What the move `m` may do to START and acknowledge-enable: it clears neither, and it sets START
only as the dispatch of an unhandled status (R34, R35, R120). -/
structure FlagsFollow (m : Move) (u t : State) : Prop where
  start : u.ctl.start = true → t.ctl.start = true
  ackEnable : u.ctl.ackEnable = true → t.ctl.ackEnable = true
  unhandled : u.ctl.start = false → t.ctl.start = true →
    m = .dispatch .i2c ∧ ∃ e, u.irq.i2cEvent = some e ∧ classOf e.1 = .other

theorem FlagsFollow.of_eq {m : Move} (hs : t.ctl.start = u.ctl.start)
    (ha : t.ctl.ackEnable = u.ctl.ackEnable) : FlagsFollow m u t :=
  ⟨hs.trans, ha.trans, fun hoff hon => by simp [hs, hoff] at hon⟩

theorem Handled.flags (h : Handled src u t) : FlagsFollow (.dispatch src) u t := by
  cases h.returned with
  | other _ hctl _ => exact .of_eq (by rw [hctl]) (by rw [hctl])
  | hung hctl _ => exact .of_eq (by rw [hctl]) (by rw [hctl])
  | event hsrc _ hack hcause hkept _ =>
    refine ⟨hkept, fun _ => hack, fun hoff hon => ⟨hsrc ▸ rfl, ?_⟩⟩
    exact hcause.resolve_left fun hs => by simp [hs, hoff] at hon

theorem Moved.flags {m : Move} (hm : Moved m u t) (hr : u.irq.run = .running)
    (hp : u.env.startup ≠ .peripherals) : FlagsFollow m u t := by
  cases hm with
  | peripherals _ h => exact absurd h hp
  | install _ _ =>
    unfold installContext
    split_ifs <;> exact .of_eq rfl rfl
  | i2c status dat hm _ hv => exact hm ▸ (handled_i2c hr hv).flags
  | telemTimer hm _ => exact hm ▸ (handled_telemTimer hr).flags
  | _ => exact .of_eq rfl rfl

/-- Settles O52: of all moves only a dispatch writes the two flags once the interface is set up. -/
theorem startIsSetOnlyByUnhandledStatusAndNeverCleared :
    Obligations.StartIsSetOnlyByUnhandledStatusAndNeverCleared := by
  intro s t hs hp
  obtain ⟨hr, hm⟩ := step_moved hs
  obtain ⟨start, ackEnable, unhandled⟩ := hm.flags (by simpa using hr) (by simpa using hp)
  simp only [State.tookMove_ctl, State.tookMove_irq] at start ackEnable unhandled
  exact ⟨start, ackEnable, unhandled⟩

end Sys2Proof.Machine
end

section
/-! Proofs about memory (20_memory.md), 1. The byte that the bus master clocks in: how a transmit
event ends, what a read answers at `ST_SRA`, and what `ST_DSA` then sends (R59, R62, R115, R118). -/

namespace Sys2Proof.Machine

variable {s t : State} {dat : Byte}

/-! ### The end of a transmit event -/

/-- The end of an event that wrote the data register, whatever call wrote it. -/
theorem State.finishTransmit_of_wrote (h : wroteByte s.env.calls = true) :
    s.finishTransmit =
      { s.finished s.engine s.env.calls with
        env := { (s.finished s.engine s.env.calls).env with hostByte := some s.ctl.data } } :=
  State.eq_of_parts State.finishTransmit_engine (State.finishTransmit_ctl_of_wrote h)
    State.finishTransmit_irq State.finishTransmit_dev (State.finishTransmit_env_of_wrote h)

/-- Settles O10: the two clauses are the two answers of `wroteByte` on the calls recorded. -/
theorem transmitEndsWithTheByteWrittenOrADraw :
    Obligations.TransmitEndsWithTheByteWrittenOrADraw := by
  intro u
  refine ⟨fun h => State.finishTransmit_of_wrote (wroteByte_iff.2 h), fun h => ?_⟩
  have silent : wroteByte u.env.calls = false := by
    rw [Bool.eq_false_iff]
    exact fun hw => (wroteByte_iff.1 hw).elim h
  exact State.finishTransmit_unanswered silent rfl rfl rfl rfl rfl

/-! ### `ST_SRA` with a latched command -/

/-- The state in which `ST_SRA` at the Epower address begins to resolve a latched command. -/
def State.reading (s : State) : State := s.clearCalls.setMode .epowerRead

@[simp] theorem State.reading_engine :
    s.reading.engine = { s.engine with mode := .epowerRead } := rfl
@[simp] theorem State.reading_ctl : s.reading.ctl = s.ctl := rfl
@[simp] theorem State.reading_irq : s.reading.irq = s.irq := rfl
@[simp] theorem State.reading_dev : s.reading.dev = s.dev := rfl
@[simp] theorem State.reading_env : s.reading.env = { s.env with calls := [] } := rfl

/-- R115, R116: a latched command is resolved as it stands, and the event ends if the read does. -/
theorem exec_stSra_latched (hr : s.irq.run = .running) (hd : decodeDevice dat = .epower)
    (hc : s.engine.rxCursor ≠ 0) :
    exec (.stSra dat) s =
      .next ((resolveRead s.engine.rxBuf[0] s.reading).andThen State.finishTransmit) := by
  have event : eventSra dat s =
      (selectCommand s.reading resolveRead).andThen State.finishTransmit := by
    unfold eventSra
    rw [hd]
    rfl
  have select : selectCommand s.reading resolveRead =
      resolveRead s.engine.rxBuf[0] s.reading := if_neg hc
  rw [← select, ← event]
  exact ifRunning_running hr _

/-- Where the read of the latched command writes its byte last, `ST_SRA` answers that byte; `u`
is `s` but for the answers and draws that the read took. -/
theorem exec_stSra_responded {u : State} {e : Engine} {cs : List Call} {b : Byte}
    (hr : s.irq.run = .running) (hd : decodeDevice dat = .epower) (hc : s.engine.rxCursor ≠ 0)
    (ht : resolveRead s.engine.rxBuf[0] s.reading = t) (hu : u.irq = s.irq)
    (h1 : t.engine = e) (h2 : t.ctl = { u.ctl with data := b }) (h3 : t.irq = u.irq)
    (h4 : t.dev = u.dev) (h5 : t.env = { u.env with calls := cs ++ [.datWrite b] }) :
    exec (.stSra dat) s = .next (u.responded e cs b) := by
  rw [exec_stSra_latched hr hd hc, ht, State.andThen_running (by rw [h3, hu, hr]),
    State.finishTransmit_responded h1 h2 h3 h4 h5]

/-- R142: a latched identifier command leaves three bytes queued and sends the top one. -/
theorem exec_stSra_uid (hr : s.irq.run = .running) (hd : decodeDevice dat = .epower)
    (hc : s.engine.rxCursor ≠ 0) (h : s.engine.rxBuf[0] = 2#8) :
    exec (.stSra dat) s = .next
      (s.responded { s.engine with mode := .epowerRead, txBuf := uidBuf, txCursor := 3 } []
        (uidByte 3)) := by
  have read : resolveRead s.engine.rxBuf[0] s.reading = readUid s.reading := by
    rw [h]
    rfl
  exact exec_stSra_responded hr hd hc read rfl rfl rfl rfl rfl rfl

/-- R143: the byte that a latched undefined constant answers is the next draw. -/
theorem exec_stSra_undefined (hr : s.irq.run = .running) (hd : decodeDevice dat = .epower)
    (hc : s.engine.rxCursor ≠ 0) (h1 : s.engine.rxBuf[0] ≠ 1#8) (h2 : s.engine.rxBuf[0] ≠ 2#8)
    (h : s.engine.rxBuf[0].toNat ≤ 63) :
    exec (.stSra dat) s = .next
      (s.tookDraw.responded { s.engine with mode := .epowerRead } [] s.freeByte) := by
  have read : resolveRead s.engine.rxBuf[0] s.reading = readUndefinedConst s.reading := by
    rw [resolveRead, if_neg h1, if_neg h2, if_pos h]
  exact exec_stSra_responded hr hd hc read rfl rfl rfl rfl rfl rfl

/-- R87, R146: the monitoring table ends at selector 4. -/
theorem readMonitor_unmapped {sel : Nat} (h : 5 ≤ sel) (s : State) : readMonitor sel s = s := by
  obtain ⟨k, rfl⟩ := Nat.exists_eq_add_of_le' h
  rfl

/-- R146: a latched unmapped selector makes no call, so the bus master clocks in a draw. -/
theorem exec_stSra_unmapped (hr : s.irq.run = .running) (hd : decodeDevice dat = .epower)
    (hc : s.engine.rxCursor ≠ 0) (h1 : 133 ≤ s.engine.rxBuf[0].toNat)
    (h2 : s.engine.rxBuf[0].toNat ≤ 250) :
    exec (.stSra dat) s = .next (s.unanswered { s.engine with mode := .epowerRead } []) := by
  have read : resolveRead s.engine.rxBuf[0] s.reading = s.reading := by
    rw [resolveRead_monitor (by omega) h2]
    exact readMonitor_unmapped (by unfold selectorOf; omega) _
  rw [exec_stSra_latched hr hd hc, read, State.andThen_running (by exact hr)]
  exact congrArg _ (State.finishTransmit_unanswered rfl rfl rfl rfl rfl rfl)

/-- Settles O11: one clause per band of `ResolveRead`, each the answer of that band's read. -/
theorem firstResponseByteOfEveryCommandBand :
    Obligations.FirstResponseByteOfEveryCommandBand := by
  intro dat s hr hd hc
  refine ⟨fun h => ?version, fun h => exec_stSra_uid hr hd hc h, fun h h1 h2 => ?undefined,
    fun h1 h2 => ?setting, fun h1 h2 => exec_stSra_unmapped hr hd hc h1 h2, fun h => ?reserved⟩
  case version =>
    have read : resolveRead s.engine.rxBuf[0] s.reading = readVersion s.reading := by
      rw [h]
      rfl
    exact exec_stSra_responded hr hd hc read rfl rfl rfl rfl rfl rfl
  case undefined => exact ⟨_, exec_stSra_undefined hr hd hc h1 h2 h, rfl⟩
  case setting =>
    exact exec_stSra_responded hr hd hc (resolveRead_setting h1 h2 _) rfl rfl rfl rfl rfl rfl
  case reserved =>
    exact exec_stSra_responded hr hd hc (resolveRead_reserved (by omega) _) rfl rfl rfl rfl rfl rfl

/-! ### What `ST_DSA` sends in `EpowerRead` -/

/-- `ST_DSA` in `EpowerRead` sends the queued or the staged byte (R118). -/
theorem exec_stDsa_epowerRead (hr : s.irq.run = .running) (hm : s.engine.mode = .epowerRead) :
    exec .stDsa s = .next (sendQueued s.clearCalls).finishTransmit := by
  have event : eventDsa s = (sendQueued s.clearCalls).finishTransmit := by
    unfold eventDsa
    rw [hm]
  rw [← event]
  exact ifRunning_running hr _

theorem exec_stDsa_queued (hr : s.irq.run = .running) (hm : s.engine.mode = .epowerRead)
    (hq : s.engine.txCursor ≠ 0) :
    exec .stDsa s = .next (s.responded { s.engine with txCursor := s.engine.txCursor - 1 } []
      s.engine.txBuf[s.engine.txCursor - 1]) := by
  rw [exec_stDsa_epowerRead hr hm, sendQueued_of_ne (s := s.clearCalls) hq,
    ← Engine.nextTx_eq _ hq, ← Engine.txDown_eq _ hq]
  exact congrArg _ (State.finishTransmit_responded rfl rfl rfl rfl rfl)

theorem exec_stDsa_staged (hr : s.irq.run = .running) (hm : s.engine.mode = .epowerRead)
    (hq : s.engine.txCursor = 0) :
    exec .stDsa s = .next (s.responded s.engine [] s.engine.staged) := by
  rw [exec_stDsa_epowerRead hr hm, sendQueued_of_zero (s := s.clearCalls) hq]
  exact congrArg _ (State.finishTransmit_responded rfl rfl rfl rfl rfl)

/-- While the identifier is queued, `ST_DSA` sends its byte below the cursor (R91, R118). -/
theorem exec_stDsa_uid {c : Fin 4} (hr : s.irq.run = .running) (hm : s.engine.mode = .epowerRead)
    (hb : s.engine.txBuf = uidBuf) (hq : s.engine.txCursor = c) (hc : c ≠ 0) :
    exec .stDsa s = .next (s.responded { s.engine with txCursor := c - 1 } []
      (uidByte (c - 1).val)) := by
  have byte : s.engine.txBuf[c - 1] = uidByte (c - 1).val := by
    rw [hb]
    simp [uidBuf]
  subst hq
  rw [exec_stDsa_queued hr hm hc, byte]

/-- Settles O26: each event is run from the end of the one before, with the send cursor at 3, 2, 1
and 0. -/
theorem uidReadDeliversMostSignificantByteFirst :
    Obligations.UidReadDeliversMostSignificantByteFirst := by
  intro dat s hr hd hc h
  exact ⟨_, _, _, _, _, exec_stSra_uid hr hd hc h,
    exec_stDsa_uid (c := 3) hr rfl rfl rfl (by decide),
    exec_stDsa_uid (c := 2) hr rfl rfl rfl (by decide),
    exec_stDsa_uid (c := 1) hr rfl rfl rfl (by decide), exec_stDsa_staged hr rfl rfl,
    rfl, rfl, rfl, rfl, rfl⟩

/-! ### Telemetry -/

/-- The written-out channel table is `MON_TABLE` (R87). -/
theorem monTable_of_mem : ∀ p ∈ [(0, 2), (1, 1), (2, 8), (3, 10), (4, 9)],
    monTable p.1 = some p.2 ∧ p.1 < 5 := by
  decide

/-- R145: a latched telemetry command takes one sample, sends its high byte and stages the low
one. -/
theorem exec_stSra_telemetry {sel ch : Nat} {v : Sample} (hr : s.irq.run = .running)
    (hd : decodeDevice dat = .epower) (hc : s.engine.rxCursor ≠ 0) (hch : monTable sel = some ch)
    (hsel : sel < 5) (h : s.engine.rxBuf[0].toNat = 128 + sel) (ha : s.adcAnswer ch = .sample v) :
    exec (.stSra dat) s = .next
      ((s.askedAdc ch).responded { s.engine with mode := .epowerRead, staged := sampleLo v }
        [.adcSample ch] (sampleHi v)) := by
  have select : selectorOf s.engine.rxBuf[0] = sel := Nat.sub_eq_of_eq_add' h
  have answer : s.reading.adcAnswer ch = .sample v := ha
  have read : resolveRead s.engine.rxBuf[0] s.reading =
      ((s.reading.askedAdc ch).datWrite (sampleHi v)).setStaged (sampleLo v) := by
    rw [resolveRead_monitor (by omega) (by omega), select]
    simp only [readMonitor, hch, readChannel, State.adcSample, answer]
  exact exec_stSra_responded hr hd hc read rfl rfl rfl rfl rfl rfl

/-- Settles O27: `ST_DSA` sends the byte that `ST_SRA` staged, and asks the ADC no more. -/
theorem telemetryReadDeliversOneSample : Obligations.TelemetryReadDeliversOneSample := by
  intro dat sel ch v s hr hd hc hq hmem h ha
  obtain ⟨hch, hsel⟩ := monTable_of_mem _ hmem
  have once : [Call.adcSample ch, .datWrite (sampleHi v), .ctlAckEnable, .ctlFlagClear].count
      (.adcSample ch) = 1 := by simp
  exact ⟨_, _, exec_stSra_telemetry hr hd hc hch hsel h ha, exec_stDsa_staged hr rfl hq,
    rfl, rfl, once, rfl, rfl⟩

end Sys2Proof.Machine
end

section
/-! Proofs about memory, 2. What the reads and the bridge leave alone (R56, R65, R140, R170), and
which moves change an engine register (R67). -/

namespace Sys2Proof.Machine

variable {s t u : State}

/-! ### The devices under a read -/

/-- The devices, the mode and the receive buffer are the same in both states. -/
structure LeavesDevices (s t : State) : Prop where
  dev : t.dev = s.dev
  mode : t.engine.mode = s.engine.mode
  rxBuf : t.engine.rxBuf = s.engine.rxBuf
  rxCursor : t.engine.rxCursor = s.engine.rxCursor

theorem LeavesDevices.refl (s : State) : LeavesDevices s s := ⟨rfl, rfl, rfl, rfl⟩

theorem leavesDevices_datWrite (b : Byte) (s : State) : LeavesDevices s (s.datWrite b) :=
  ⟨rfl, rfl, rfl, rfl⟩

theorem leavesDevices_readUid (s : State) : LeavesDevices s (readUid s) := ⟨rfl, rfl, rfl, rfl⟩

theorem leavesDevices_readUndefinedConst (s : State) : LeavesDevices s (readUndefinedConst s) :=
  ⟨rfl, rfl, rfl, rfl⟩

theorem leavesDevices_readSetting (id : Nat) (s : State) : LeavesDevices s (readSetting id s) :=
  ⟨rfl, rfl, rfl, rfl⟩

/-- Whether or not the ADC answers (R58). -/
theorem leavesDevices_readMonitor (sel : Nat) (s : State) :
    LeavesDevices s (readMonitor sel s) := by
  unfold readMonitor
  cases monTable sel with
  | none => exact .refl s
  | some ch =>
    dsimp only
    unfold readChannel State.adcSample
    cases s.adcAnswer ch with
    | sample v => exact ⟨rfl, rfl, rfl, rfl⟩
    | hang => exact ⟨rfl, rfl, rfl, rfl⟩

/-- Whatever the downstream driver answers to a read (R57). -/
theorem leavesDevices_forwardRead (c : Call) (s : State) : LeavesDevices s (s.forwardRead c) := by
  unfold State.forwardRead
  cases s.vrmReadAnswer with
  | ok b => exact ⟨rfl, rfl, rfl, rfl⟩
  | err => exact ⟨rfl, rfl, rfl, rfl⟩
  | hang => exact ⟨rfl, rfl, rfl, rfl⟩

/-- Whatever the downstream driver answers to a write (R57). -/
theorem leavesDevices_vrmWriteU8 (reg v : Byte) (s : State) :
    LeavesDevices s (s.vrmWriteU8 reg v) := by
  unfold State.vrmWriteU8
  cases s.vrmWriteAnswer with
  | ok => exact ⟨rfl, rfl, rfl, rfl⟩
  | err => exact ⟨rfl, rfl, rfl, rfl⟩
  | hang => exact ⟨rfl, rfl, rfl, rfl⟩

/-- A CMD_READ row does what one of the reads of R141 to R147 does. -/
theorem leavesDevices_exec_cmdRead {i : Instr} (hf : i.format = .cmdRead)
    (h : exec i s = .next t) : LeavesDevices s t := by
  cases i <;> simp only [Instr.format, reduceCtorEq] at hf <;>
    obtain ⟨-, he⟩ := ifRunning_eq_next.1 h <;> cases he
  case readUndef0 => exact leavesDevices_readUndefinedConst s
  case readVersion => exact leavesDevices_datWrite _ s
  case readUid => exact leavesDevices_readUid s
  case readUndef n => exact leavesDevices_readUndefinedConst s
  case readSetting id => exact leavesDevices_readSetting _ s
  case readSettingUnrecognized id => exact leavesDevices_readSetting _ s
  case readTelemetry0 => exact leavesDevices_readMonitor 0 s
  case readTelemetry1 => exact leavesDevices_readMonitor 1 s
  case readTelemetry2 => exact leavesDevices_readMonitor 2 s
  case readTelemetry3 => exact leavesDevices_readMonitor 3 s
  case readTelemetry4 => exact leavesDevices_readMonitor 4 s
  case readUnmapped sel => exact leavesDevices_readMonitor _ s
  case readReserved c => exact leavesDevices_datWrite _ s

/-- A PT row writes downstream, writes the probe byte, reads downstream, or does nothing (R170). -/
theorem leavesDevices_exec_pt {i : Instr} (hf : i.format = .pt) (h : exec i s = .next t) :
    LeavesDevices s t := by
  cases i <;> simp only [Instr.format, reduceCtorEq] at hf <;>
    obtain ⟨-, he⟩ := ifRunning_eq_next.1 h <;> cases he
  case ptWrite reg v => exact leavesDevices_vrmWriteU8 reg v s
  case ptReadProbe => exact leavesDevices_datWrite _ s
  case ptReadFirst reg => exact leavesDevices_forwardRead _ s
  case ptReadNext => exact leavesDevices_forwardRead _ s
  case ptLatch => exact .refl s

/-- Settles O32: every row of the two formats runs one of the operations above. -/
theorem readsAndBridgeLeaveTheDevicesAlone : Obligations.ReadsAndBridgeLeaveTheDevicesAlone := by
  intro i s t hf h
  obtain ⟨dev, mode, rxBuf, rxCursor⟩ : LeavesDevices s t :=
    hf.elim (leavesDevices_exec_cmdRead · h) (leavesDevices_exec_pt · h)
  exact ⟨dev, mode, rxBuf, rxCursor⟩

/-! ### The engine under a move -/

/-- The telemetry timer's handler leaves the engine alone, also where a call in it hangs (R197). -/
theorem telemAction_engine (u : State) : (telemAction u).engine = u.engine := by
  unfold telemAction
  cases u.telemEffect with
  | done d => rfl
  | hang d => rfl

theorem State.andThen_leaveHandler_engine (u : State) :
    (u.andThen State.leaveHandler).engine = u.engine := by
  unfold State.andThen
  split_ifs <;> rfl

/-- The moves that may change an engine register are the I2C dispatch and the first `INSTALL`. -/
theorem Moved.engine_changed {m : Move} (hm : Moved m u t) (hne : t.engine ≠ u.engine) :
    m = .dispatch .i2c ∨
      m = .startup ∧ u.env.startup = .install ∧ u.irq.ctxInstalled = false := by
  cases hm with
  | install hm hp =>
    refine .inr ⟨hm, hp, ?_⟩
    by_contra hctx
    rw [installContext, if_pos (by simpa using hctx)] at hne
    exact hne rfl
  | i2c _ _ hm _ _ => exact .inl hm
  | telemTimer _ _ =>
    exact absurd ((State.andThen_leaveHandler_engine _).trans (telemAction_engine _)) hne
  | _ => exact absurd rfl hne

/-- Settles O51: the move taken from the schedule leaves the engine and the startup as they were. -/
theorem engineChangesOnlyByI2cDispatchOrInstall :
    Obligations.EngineChangesOnlyByI2cDispatchOrInstall := by
  intro s t hs hne
  obtain ⟨-, hm⟩ := step_moved hs
  have changed := hm.engine_changed (by simpa using hne)
  simpa using changed

end Sys2Proof.Machine
end

section
/-! Proofs about the encodings (30_encoding.md), 1. The decoder on the rows' own ranges, the device of
an address byte, and the class of a status byte (R80 to R87, R94, R95). -/

namespace Sys2Proof

/-! ### The fields of a command byte -/

/-- A command byte is its fixed high bits, shifted, and its field added. -/
theorem toNat_append_eq_add {m n : Nat} (hi : BitVec m) (lo : BitVec n) :
    (hi ++ lo).toNat = hi.toNat * 2 ^ n + lo.toNat := by
  rw [BitVec.toNat_append, ← Nat.shiftLeft_add_eq_or_of_lt lo.isLt, Nat.shiftLeft_eq]

/-- The field in the low `n` bits of a command byte. -/
theorem toNat_lowField (c : Byte) (n : Nat) : (c.extractLsb' 0 n).toNat = c.toNat % 2 ^ n := by
  rw [BitVec.extractLsb'_toNat, Nat.shiftRight_zero]

/-! ### The CMD_READ and CMD_WRITE rows, on their ranges (R85, R95)

The converse of `decodeRead_elim` and `decodeWrite_elim`: the range of the command gives the row. -/

section
variable (c : Byte)

theorem decodeRead_undef (h1 : 3 ≤ c.toNat) (h2 : c.toNat ≤ 63) :
    decodeRead c = .readUndef (c.extractLsb' 0 6) := by
  rw [decodeRead, if_neg (by bv_omega), if_neg (by bv_omega), if_neg (by bv_omega), if_pos h2]

theorem decodeRead_setting (h1 : 64 ≤ c.toNat) (h2 : c.toNat ≤ 70) :
    decodeRead c = .readSetting (c.extractLsb' 0 6) := by
  rw [decodeRead, if_neg (by bv_omega), if_neg (by bv_omega), if_neg (by bv_omega),
    if_neg (by omega), if_pos h2]

theorem decodeRead_settingUnrecognized (h1 : 71 ≤ c.toNat) (h2 : c.toNat ≤ 127) :
    decodeRead c = .readSettingUnrecognized (c.extractLsb' 0 6) := by
  rw [decodeRead, if_neg (by bv_omega), if_neg (by bv_omega), if_neg (by bv_omega),
    if_neg (by omega), if_neg (by omega), if_pos h2]

theorem decodeRead_unmapped (h1 : 133 ≤ c.toNat) (h2 : c.toNat ≤ 250) :
    decodeRead c = .readUnmapped (c.extractLsb' 0 7) := by
  rw [decodeRead]
  iterate 11 rw [if_neg (by bv_omega)]
  exact if_pos h2

theorem decodeRead_reserved (h : 251 ≤ c.toNat) : decodeRead c = .readReserved c := by
  rw [decodeRead]
  iterate 11 rw [if_neg (by bv_omega)]
  exact if_neg (by omega)

theorem decodeWrite_ignoredLow (v : Byte) (h : c.toNat ≤ 63) :
    decodeWrite c v = .writeIgnoredLow (c.extractLsb' 0 6) v := by
  rw [decodeWrite, if_pos h]

theorem decodeWrite_setting (v : Byte) (h1 : 64 ≤ c.toNat) (h2 : c.toNat ≤ 67) :
    decodeWrite c v = .writeSetting (c.extractLsb' 0 2) v := by
  rw [decodeWrite, if_neg (by omega), if_pos h2]

theorem decodeWrite_settingUnrecognized (v : Byte) (h1 : 71 ≤ c.toNat) (h2 : c.toNat ≤ 127) :
    decodeWrite c v = .writeSettingUnrecognized (c.extractLsb' 0 6) v := by
  rw [decodeWrite, if_neg (by omega), if_neg (by omega), if_neg (by bv_omega),
    if_neg (by bv_omega), if_neg (by bv_omega), if_pos h2]

theorem decodeWrite_ignoredHigh (v : Byte) (h : 128 ≤ c.toNat) :
    decodeWrite c v = .writeIgnoredHigh (c.extractLsb' 0 7) v := by
  rw [decodeWrite, if_neg (by omega), if_neg (by omega), if_neg (by bv_omega),
    if_neg (by bv_omega), if_neg (by bv_omega), if_neg (by omega)]

end

/-! ### Decoding what the encoder writes -/

/-- R85, R95: the byte that the encoder writes lies in the range of its CMD_READ row, and its low
bits are the operand. -/
theorem decode_encode_cmdRead {i : Instr} (hf : i.format = .cmdRead) (h : i.WellFormed) :
    decode (encode i) = .ok i := by
  cases i with
  | readUndef n =>
    have byte : (0b00#2 ++ n).toNat = 0 + n.toNat := toNat_append_eq_add _ n
    show Except.ok (decodeRead (0b00#2 ++ n)) = _
    rw [decodeRead_undef _ (by omega) (by omega), BitVec.extractLsb'_append_eq_right]
  | readSetting id =>
    have byte : (0b01#2 ++ id).toNat = 64 + id.toNat := toNat_append_eq_add _ id
    show Except.ok (decodeRead (0b01#2 ++ id)) = _
    rw [decodeRead_setting _ (by omega) (by omega), BitVec.extractLsb'_append_eq_right]
  | readSettingUnrecognized id =>
    have byte : (0b01#2 ++ id).toNat = 64 + id.toNat := toNat_append_eq_add _ id
    show Except.ok (decodeRead (0b01#2 ++ id)) = _
    rw [decodeRead_settingUnrecognized _ (by omega) (by omega), BitVec.extractLsb'_append_eq_right]
  | readUnmapped sel =>
    have byte : (0b1#1 ++ sel).toNat = 128 + sel.toNat := toNat_append_eq_add _ sel
    show Except.ok (decodeRead (0b1#1 ++ sel)) = _
    rw [decodeRead_unmapped _ (by omega) (by omega), BitVec.extractLsb'_append_eq_right]
  | readReserved c => exact congrArg Except.ok (decodeRead_reserved c h)
  | readUndef0 | readVersion | readUid => rfl
  | readTelemetry0 | readTelemetry1 | readTelemetry2 | readTelemetry3 | readTelemetry4 => rfl
  | _ => cases hf

/-- R85, R95: the same for the CMD_WRITE rows. -/
theorem decode_encode_cmdWrite {i : Instr} (hf : i.format = .cmdWrite) (h : i.WellFormed) :
    decode (encode i) = .ok i := by
  cases i with
  | writeIgnoredLow n v =>
    have byte : (0b00#2 ++ n).toNat = 0 + n.toNat := toNat_append_eq_add _ n
    show Except.ok (decodeWrite (0b00#2 ++ n) v) = _
    rw [decodeWrite_ignoredLow _ v (by omega), BitVec.extractLsb'_append_eq_right]
  | writeSetting id v =>
    have byte : (0b010000#6 ++ id).toNat = 64 + id.toNat := toNat_append_eq_add _ id
    show Except.ok (decodeWrite (0b010000#6 ++ id) v) = _
    rw [decodeWrite_setting _ v (by omega) (by omega), BitVec.extractLsb'_append_eq_right]
  | writeSettingUnrecognized id v =>
    have byte : (0b01#2 ++ id).toNat = 64 + id.toNat := toNat_append_eq_add _ id
    show Except.ok (decodeWrite (0b01#2 ++ id) v) = _
    rw [decodeWrite_settingUnrecognized _ v (by omega) (by omega),
      BitVec.extractLsb'_append_eq_right]
  | writeIgnoredHigh n v =>
    have byte : (0b1#1 ++ n).toNat = 128 + n.toNat := toNat_append_eq_add _ n
    show Except.ok (decodeWrite (0b1#1 ++ n) v) = _
    rw [decodeWrite_ignoredHigh _ v (by omega), BitVec.extractLsb'_append_eq_right]
  | writeSettingL1Enabled v | writeSettingL2Enabled v | writeSettingOrientation v => rfl
  | _ => cases hf

/-- R80, R82: each of the six codes is of its own class, and a code that is none of them is kept. -/
theorem decode_encode_status {i : Instr} (hf : i.format = .status) (h : i.WellFormed) :
    decode (encode i) = .ok i := by
  cases i with
  | stOther code => simp [decode, encode, decodeStatus, classOf_of_not_named h]
  | stSwa | stDra | stSpr | stSra | stDsa | stDsn => simp [decode, encode, decodeStatus]
  | _ => cases hf

/-- Settles O1: level by level; outside the command bytes and the status codes only a button number
is checked. -/
theorem decodeOfEncodeIsTheInstruction : Obligations.DecodeOfEncodeIsTheInstruction := by
  intro i h
  cases hf : i.format with
  | status => exact decode_encode_status hf h
  | cmdRead => exact decode_encode_cmdRead hf h
  | cmdWrite => exact decode_encode_cmdWrite hf h
  | pt =>
    cases i with
    | ptWrite | ptReadProbe | ptReadFirst | ptReadNext | ptLatch => rfl
    | _ => cases hf
  | irq =>
    cases i with
    | irqButton k => exact if_pos h
    | install | unmask | irqI2c | irqDispTimer | irqTelemTimer => rfl
    | _ => cases hf

/-! ### What the decoder answers -/

/-- R80, R82: a status byte whose class is `ST_OTHER` is none of the six codes. -/
theorem classOf_eq_other_iff {code : Byte} : classOf code = .other ↔ code ∉ Config.namedCodes := by
  refine ⟨fun h hc => ?_, classOf_of_not_named⟩
  simp only [Config.namedCodes, List.mem_cons, List.not_mem_nil, or_false] at hc
  rcases hc with rfl | rfl | rfl | rfl | rfl | rfl <;> simp at h

theorem decodeStatus_wellFormed (code dat : Byte) : (decodeStatus code dat).WellFormed := by
  unfold decodeStatus
  cases h : classOf code with
  | other => exact classOf_eq_other_iff.1 h
  | _ => trivial

/-- Where a row checks its field, the range of commands that selects the row gives the check. -/
theorem decodeRead_wellFormed (c : Byte) : (decodeRead c).WellFormed := by
  have six := toNat_lowField c 6
  have seven := toNat_lowField c 7
  apply decodeRead_elim (P := Instr.WellFormed) c
  case undef | setting | unrec | unmapped =>
    intro h1 h2
    dsimp only [Instr.WellFormed]
    omega
  case reserved => exact id
  all_goals exact fun _ => trivial

theorem decodeWrite_wellFormed (c v : Byte) : (decodeWrite c v).WellFormed := by
  have six := toNat_lowField c 6
  apply decodeWrite_elim (P := Instr.WellFormed) c v
  case unrec =>
    intro h1 h2
    dsimp only [Instr.WellFormed]
    omega
  all_goals intros; trivial

theorem decodePtStop_wellFormed (payload : List Byte) : (decodePtStop payload).WellFormed := by
  unfold decodePtStop
  split <;> trivial

theorem decodePtFirst_wellFormed (latched : List Byte) : (decodePtFirst latched).WellFormed := by
  cases latched <;> trivial

/-- Settles O2: selector by selector; a button number is decoded only below `N_BUTTON`. -/
theorem decodedInstructionsAreWellFormed : Obligations.DecodedInstructionsAreWellFormed := by
  intro sel i h
  cases sel with
  | status code dat => cases h; exact decodeStatus_wellFormed code dat
  | cmdRead c => cases h; exact decodeRead_wellFormed c
  | cmdWrite payload =>
    match payload, h with
    | [c, v], h => cases h; exact decodeWrite_wellFormed c v
  | ptStop payload => cases h; exact decodePtStop_wellFormed payload
  | ptFirst latched => cases h; exact decodePtFirst_wellFormed latched
  | ptNext | startInstall | startUnmask => cases h; trivial
  | irq src =>
    cases src with
    | button k =>
      have row : (if k < Config.nButton then .ok (.irqButton k) else .error .noSuchButton) =
        Except.ok (ε := DecodeError) i := h
      split_ifs at row with hk
      cases row
      exact hk
    | i2c | dispTimer | telemTimer => cases h; trivial

/-! ### The device -/

theorem decodeDevice_eq_epower_iff {dat : Byte} :
    decodeDevice dat = .epower ↔ addr7 dat = Config.addrEpower := by
  unfold decodeDevice
  split_ifs with he <;> simp [he]

theorem decodeDevice_eq_pmic_iff {dat : Byte} :
    decodeDevice dat = .pmic ↔ addr7 dat = Config.addrPmic := by
  unfold decodeDevice
  split_ifs with he hp
  · simp [he, addrPmic_ne_addrEpower.symm]
  · simp [hp]
  · simp [hp]

theorem decodeDevice_eq_none_iff {dat : Byte} :
    decodeDevice dat = .none ↔ addr7 dat ≠ Config.addrEpower ∧ addr7 dat ≠ Config.addrPmic := by
  unfold decodeDevice
  split_ifs with he hp
  · simp [he]
  · simp [hp]
  · simp [he, hp]

/-- Settles O4: `addrByte a direction` is `a ++ direction`, and its address field is `a`. -/
theorem deviceIsDecodedFromTheAddressBits : Obligations.DeviceIsDecodedFromTheAddressBits := by
  intro a direction
  have address : addr7 (a ++ direction) = a := addr7_addrByte a direction
  rw [decodeDevice_eq_epower_iff, decodeDevice_eq_pmic_iff, decodeDevice_eq_none_iff, address]
  exact ⟨Iff.rfl, Iff.rfl, Iff.rfl⟩

/-! ### The 250 values of `ST_OTHER` (R82) -/

/-- Every status byte, once each. -/
def allBytes : List Byte := (List.range 256).map (BitVec.ofNat 8)

theorem mem_allBytes (b : Byte) : b ∈ allBytes :=
  List.mem_map.2 ⟨b.toNat, List.mem_range.2 b.isLt, by simp⟩

theorem nodup_allBytes : allBytes.Nodup := by
  refine List.Nodup.map_on (fun m hm n hn h => ?_) List.nodup_range
  simp only [List.mem_range] at hm hn
  bv_omega

/-- The six codes are the images of six distinct bytes (R6, R81). -/
theorem nodup_namedCodes : Config.namedCodes.Nodup := by
  have images : Config.namedCodes = [0#8, 1#8, 2#8, 3#8, 4#8, 5#8].map Config.statusCodes := rfl
  rw [images]
  exact List.Nodup.map Config.statusCodes.injective (by decide)

/-- Settles O3: the bytes that are not `ST_OTHER` are the six codes, each once, so 250 are left. -/
theorem statusOtherIsTheComplementOfSixCodes :
    Obligations.StatusOtherIsTheComplementOfSixCodes := by
  refine ⟨fun _ => classOf_eq_other_iff, by simp [Config.namedCodes], ?_⟩
  have named : (allBytes.filter fun b => !decide (classOf b = .other)).Perm Config.namedCodes := by
    rw [List.perm_ext_iff_of_nodup (nodup_allBytes.filter _) nodup_namedCodes]
    simp [mem_allBytes, classOf_eq_other_iff]
  have total := allBytes.length_eq_length_filter_add fun b => decide (classOf b = .other)
  rw [named.length_eq] at total
  simp only [allBytes, List.filter_map, List.length_map, List.length_range] at total
  exact Nat.add_right_cancel total.symm

/-! ### Words written out -/

/-- Settles O5: each of the ten selectors is evaluated. -/
theorem writtenOutWordsDecode : Obligations.WrittenOutWordsDecode := by
  unfold Obligations.WrittenOutWordsDecode
  decide

end Sys2Proof
end

section
/-! Proofs about the encodings, 2. The transactions of a setting on the bus, event by event (R97,
R98, R112 to R119). -/

namespace Sys2Proof.Machine

variable {s t u : State}

/-! ### Lists of events -/

theorem afterEvents_cons {i : Instr} (is : List Instr) (h : exec i s = .next t) :
    afterEvents (i :: is) s = afterEvents is t := by
  simp only [afterEvents, h]

theorem afterEvents_append {is : List Instr} (js : List Instr) (h : afterEvents is s = .next t) :
    afterEvents (is ++ js) s = afterEvents js t := by
  induction is generalizing s with
  | nil => cases h; rfl
  | cons i is ih =>
    cases hi : exec i s with
    | next u =>
      rw [afterEvents_cons is hi] at h
      rw [List.cons_append, afterEvents_cons _ hi]
      exact ih h
    | fault f => simp [afterEvents, hi] at h
    | refused r => simp [afterEvents, hi] at h

/-! ### The single events -/

/-- R112. -/
theorem exec_stSwa (dat : Byte) (hr : s.irq.run = .running) :
    exec (.stSwa dat) s = .next
      (s.finished { s.engine with mode := writeMode (decodeDevice dat), rxCursor := 0 } []) :=
  (ifRunning_running hr _).trans (congrArg _ (State.finish_finished _))

/-- R113: a byte received in a write mode. -/
theorem exec_stDra_of_write (b : Byte) (hr : s.irq.run = .running)
    (hm : s.engine.mode = .epowerWrite ∨ s.engine.mode = .passthroughWrite) :
    exec (.stDra b) s = .next (s.finished (s.engine.receive b) []) := by
  have event : eventDra b s = s.finished (s.engine.receive b) [] := by
    unfold eventDra
    rcases hm with hm | hm <;> rw [hm] <;> exact State.finish_finished _
  exact (ifRunning_running hr _).trans (congrArg _ event)

/-- R114: the end of a write or of a read, where the action it takes does not wedge. -/
theorem exec_stSpr_of_stopAction (hr : s.irq.run = .running) (hu : stopAction s.clearCalls = u)
    (hi : u.irq = s.irq) : exec .stSpr s = .next (u.setMode .idle).finish := by
  have event : eventSpr s = (u.setMode .idle).finish := by
    rw [eventSpr, hu, State.andThen_running (by rw [hi, hr])]
  exact (ifRunning_running hr _).trans (congrArg _ event)

theorem exec_stSpr_epowerCommit (hr : s.irq.run = .running) (hm : s.engine.mode = .epowerWrite)
    (hc : s.engine.rxCursor = 2) :
    exec .stSpr s = .next
      ((epowerCommit s.engine.rxBuf[0] s.engine.rxBuf[1] s.clearCalls).setMode .idle).finish := by
  refine exec_stSpr_of_stopAction hr ?_ (epowerCommit_irq _ _)
  simp [stopAction, hm, hc]

theorem exec_stSpr_epowerLatch (hr : s.irq.run = .running) (hm : s.engine.mode = .epowerWrite)
    (hc : s.engine.rxCursor ≠ 2) :
    exec .stSpr s = .next (s.finished { s.engine with mode := .idle } []) := by
  have stop : stopAction s.clearCalls = s.clearCalls := by simp [stopAction, hm, hc]
  rw [exec_stSpr_of_stopAction hr stop rfl, State.finish_finished]
  rfl

theorem exec_stSpr_epowerRead (hr : s.irq.run = .running) (hm : s.engine.mode = .epowerRead) :
    exec .stSpr s = .next
      (s.finished { s.engine with mode := .idle, rxCursor := 0, txCursor := 0 } []) := by
  have stop : stopAction s.clearCalls = s.clearCalls.clearRx.clearTx := by simp [stopAction, hm]
  rw [exec_stSpr_of_stopAction hr stop rfl, State.finish_finished]
  rfl

/-- R119. -/
theorem exec_stDsn (hr : s.irq.run = .running) :
    exec .stDsn s = .next (s.finished { s.engine with rxCursor := 0, txCursor := 0 } []) :=
  (ifRunning_running hr _).trans (congrArg _ (State.finish_finished _))

/-- R115, R144: a latched command of the settings band answers the setting. -/
theorem exec_stSra_setting {dat : Byte} (hr : s.irq.run = .running)
    (hd : decodeDevice dat = .epower) (hc : s.engine.rxCursor ≠ 0)
    (h1 : 64 ≤ s.engine.rxBuf[0].toNat) (h2 : s.engine.rxBuf[0].toNat ≤ 127) :
    exec (.stSra dat) s = .next
      (s.responded { s.engine with mode := .epowerRead }
        [.settingsGet (settingId s.engine.rxBuf[0])]
        (settingAt s.dev.settings (settingId s.engine.rxBuf[0]))) :=
  exec_stSra_responded hr hd hc (resolveRead_setting h1 h2 _) rfl rfl rfl rfl rfl rfl

/-! ### The bytes of a write segment -/

theorem Engine.length_latched (e : Engine) : e.latched.length = e.rxCursor.val := by
  simp only [Engine.latched, List.length_take, Vector.length_toList]
  omega

/-- R25: a byte received while there is room comes after those already latched. -/
theorem Engine.latched_receive {e : Engine} (b : Byte) (h : e.rxCursor.val < 8) :
    (e.receive b).latched = e.latched ++ [b] := by
  rw [Engine.receive, dif_pos h]
  simp [Engine.latched, List.take_add_one, h, Vector.toList_set, List.take_set_of_le]

theorem Engine.receive_mode (e : Engine) (b : Byte) : (e.receive b).mode = e.mode := by
  unfold Engine.receive
  split_ifs <;> rfl

/-- The byte at an index below the cursor is the latched one. -/
theorem Engine.rxBuf_of_latched {e : Engine} {i : Nat} (hi : i < 8) (h : i < e.latched.length) :
    e.rxBuf[i] = e.latched[i] := by
  simp [Engine.latched]

/-- `t` is in a write to the Epower device with `bytes` received so far; the dispatcher and the
collaborators are as in `s`. -/
structure Receiving (s : State) (bytes : List Byte) (t : State) : Prop where
  irq : t.irq = s.irq
  dev : t.dev = s.dev
  mode : t.engine.mode = .epowerWrite
  latched : t.engine.latched = bytes

theorem Receiving.rxCursor {bytes : List Byte} (h : Receiving s bytes t) :
    t.engine.rxCursor.val = bytes.length := by
  rw [← Engine.length_latched, h.latched]

theorem Receiving.rxBuf {bytes : List Byte} (h : Receiving s bytes t) {i : Nat} (hi : i < 8)
    (hb : i < bytes.length) : t.engine.rxBuf[i] = bytes[i] := by
  obtain ⟨-, -, -, rfl⟩ := h
  exact Engine.rxBuf_of_latched hi hb

theorem receiving_stSwa (hr : s.irq.run = .running) :
    ∃ t, exec (.stSwa (addrByte Target.epower.addr 0#1)) s = .next t ∧ Receiving s [] t :=
  ⟨_, exec_stSwa _ hr, rfl, rfl, congrArg writeMode (decodeDevice_epower _), rfl⟩

theorem receiving_stDra {bytes : List Byte} (b : Byte) (hr : s.irq.run = .running)
    (hl : bytes.length < 8) (h : Receiving s bytes t) :
    ∃ u, exec (.stDra b) t = .next u ∧ Receiving s (bytes ++ [b]) u := by
  have room : t.engine.rxCursor.val < 8 := by rwa [h.rxCursor]
  refine ⟨_, exec_stDra_of_write b (by rw [h.irq, hr]) (.inl h.mode), h.irq, h.dev, ?_, ?_⟩
  · exact (Engine.receive_mode _ b).trans h.mode
  · exact (Engine.latched_receive b room).trans (by rw [h.latched])

theorem receiving_afterEvents {bytes : List Byte} (more : List Byte) (hr : s.irq.run = .running)
    (hl : bytes.length + more.length ≤ 8) (h : Receiving s bytes t) :
    ∃ u, afterEvents (more.map .stDra) t = .next u ∧ Receiving s (bytes ++ more) u := by
  induction more generalizing bytes t with
  | nil => exact ⟨t, rfl, by simpa using h⟩
  | cons b more ih =>
    rw [List.length_cons] at hl
    obtain ⟨u, hu, received⟩ := receiving_stDra b hr (by omega) h
    obtain ⟨w, hw, done⟩ := ih (by simp; omega) received
    exact ⟨w, (afterEvents_cons _ hu).trans hw, by simpa using done⟩

/-- R98, R112, R113: a write segment of at most eight bytes, up to its STOP, latches those bytes. -/
theorem afterEvents_write {bytes : List Byte} (hr : s.irq.run = .running)
    (hl : bytes.length ≤ 8) :
    ∃ t, afterEvents (.stSwa (addrByte Target.epower.addr 0#1) :: bytes.map .stDra) s = .next t ∧
      Receiving s bytes t := by
  obtain ⟨t, ht, start⟩ := receiving_stSwa hr
  obtain ⟨u, hu, received⟩ := receiving_afterEvents bytes hr (by simpa using hl) start
  exact ⟨u, (afterEvents_cons _ ht).trans hu, received⟩

/-! ### The two idioms (R97) -/

/-- R149: the idiom `WRITE c, v` stores `v`. -/
theorem afterEvents_writeIdiom {c : Byte} (v : Byte) (hr : s.irq.run = .running)
    (h1 : 64 ≤ c.toNat) (h2 : c.toNat ≤ 127) :
    ∃ t, afterEvents ((writeIdiom c v).flatMap Segment.events) s = .next t ∧
      t.irq = s.irq ∧ t.dev.settings = settingPut s.dev.settings (settingId c) v := by
  obtain ⟨t, ht, received⟩ := afterEvents_write (bytes := [c, v]) hr (by simp)
  have command : t.engine.rxBuf[0] = c := received.rxBuf (by decide) (by simp)
  have value : t.engine.rxBuf[1] = v := received.rxBuf (by decide) (by simp)
  have stop := exec_stSpr_epowerCommit (by rw [received.irq, hr]) received.mode
    (Fin.ext received.rxCursor)
  rw [command, value] at stop
  refine ⟨_, (afterEvents_append _ ht).trans (afterEvents_cons [] stop),
    (epowerCommit_irq c v).trans received.irq, ?_⟩
  show (epowerCommit c v t.clearCalls).dev.settings = _
  rw [epowerCommit, if_pos ⟨h1, h2⟩, writeSetting_settings, State.clearCalls_dev, received.dev]

/-- R98, R114: a write segment of one byte leaves that byte latched and commits nothing. -/
theorem afterEvents_writeOne (c : Byte) (hr : s.irq.run = .running) :
    ∃ t, afterEvents (Segment.write .epower [c]).events s = .next t ∧ t.irq = s.irq ∧
      t.dev = s.dev ∧ t.engine.rxCursor = 1 ∧ t.engine.rxBuf[0] = c := by
  obtain ⟨t, ht, received⟩ := afterEvents_write (bytes := [c]) hr (by simp)
  have cursor : t.engine.rxCursor = 1 := Fin.ext received.rxCursor
  have stop := exec_stSpr_epowerLatch (by rw [received.irq, hr]) received.mode
    (by rw [cursor]; decide)
  exact ⟨_, (afterEvents_append _ ht).trans (afterEvents_cons [] stop), received.irq, received.dev,
    cursor, received.rxBuf (by decide) (by simp)⟩

/-- R98, R144: a read segment of one byte delivers the latched setting and leaves both cursors at 0,
whether or not its STOP is an event. -/
theorem afterEvents_readOne (stopSeen : Bool) (hr : s.irq.run = .running)
    (hc : s.engine.rxCursor ≠ 0) (h1 : 64 ≤ s.engine.rxBuf[0].toNat)
    (h2 : s.engine.rxBuf[0].toNat ≤ 127) :
    ∃ t, afterEvents (Segment.read .epower 0 stopSeen).events s = .next t ∧
      t.env.hostByte = some (settingAt s.dev.settings (settingId s.engine.rxBuf[0])) ∧
      t.irq = s.irq ∧ t.dev = s.dev ∧ t.engine.rxCursor = 0 ∧ t.engine.txCursor = 0 ∧
      t.engine.mode = if stopSeen then .idle else .epowerRead := by
  have address := exec_stSra_setting hr (decodeDevice_epower 1#1) hc h1 h2
  have read := (afterEvents_cons [.stDsn] address).trans (afterEvents_cons [] (exec_stDsn hr))
  cases stopSeen with
  | false => exact ⟨_, read, rfl, rfl, rfl, rfl, rfl, rfl⟩
  | true =>
    refine ⟨_, (afterEvents_append _ read).trans (afterEvents_cons []
      (exec_stSpr_epowerRead ?_ ?_)), rfl, rfl, rfl, rfl, rfl, rfl⟩
    · exact hr
    · rfl

/-- R144: the idiom `READ c, 1` delivers the setting. -/
theorem afterEvents_readIdiom {c : Byte} (stopSeen : Bool) (hr : s.irq.run = .running)
    (h1 : 64 ≤ c.toNat) (h2 : c.toNat ≤ 127) :
    ∃ t, afterEvents ((readIdiom c 0 stopSeen).flatMap Segment.events) s = .next t ∧
      t.env.hostByte = some (settingAt s.dev.settings (settingId c)) ∧ t.irq = s.irq ∧
      t.dev = s.dev ∧ t.engine.rxCursor = 0 ∧ t.engine.txCursor = 0 ∧
      t.engine.mode = if stopSeen then .idle else .epowerRead := by
  obtain ⟨t, ht, irq, dev, cursor, rfl⟩ := afterEvents_writeOne c hr
  obtain ⟨u, hu, byte, irq', dev', rest⟩ :=
    afterEvents_readOne stopSeen (by rw [irq, hr]) (by rw [cursor]; decide) h1 h2
  refine ⟨u, (afterEvents_append _ ht).trans ?_, dev ▸ byte, irq'.trans irq, dev'.trans dev, rest⟩
  simpa using hu

/-- Settles O59: the write stores the value, and the read then delivers what is stored. -/
theorem settingTransactionsRoundTrip : Obligations.SettingTransactionsRoundTrip := by
  intro c v stopSeen s hr h1 h2
  obtain ⟨t, ht, irq, settings⟩ := afterEvents_writeIdiom v hr h1 (by omega)
  obtain ⟨u, hu, byte, irq', dev, rx, tx, mode⟩ :=
    afterEvents_readIdiom stopSeen (by rw [irq, hr]) h1 (by omega)
  have stored : settingAt t.dev.settings (settingId c) = v := by
    rw [settings, settingAt_put_same _ _ (by unfold settingId; omega)]
  refine ⟨u, ?_, byte.trans (congrArg some stored), by rw [irq', irq, hr], rx, tx, ?_, mode⟩
  · rw [List.flatMap_append, afterEvents_append _ ht, hu]
  · rw [dev]
    exact stored

end Sys2Proof.Machine
end

section
/-! Proofs about the engine's events (40_engine_events.md), 1. What each of the seven events does,
as a whole next state (R112 to R120). -/

namespace Sys2Proof.Machine

variable {s t u : State} {dat : Byte}

/-! ### `ST_SWA` and `ST_DRA` -/

/-- The write mode of an address byte, written out on its address bits (R84, R112). -/
theorem writeMode_decodeDevice (dat : Byte) :
    writeMode (decodeDevice dat) =
      if addr7 dat = Config.addrEpower then .epowerWrite
      else if addr7 dat = Config.addrPmic then .passthroughWrite else .idle := by
  unfold decodeDevice
  split_ifs <;> rfl

/-- Settles O6: the mode that is entered is the write mode of the device addressed. -/
theorem stSwaEntersTheWriteModeAndClearsTheReceiveCursor :
    Obligations.StSwaEntersTheWriteModeAndClearsTheReceiveCursor := by
  intro dat s hr
  rw [exec_stSwa dat hr, writeMode_decodeDevice]

theorem Engine.receive_of_room {e : Engine} (b : Byte) (h : e.rxCursor.val < 8) :
    e.receive b = { e with
      rxBuf := e.rxBuf.setIfInBounds e.rxCursor.val b, rxCursor := e.rxCursor + 1 } := by
  have next : (⟨e.rxCursor.val + 1, by omega⟩ : Fin 9) = e.rxCursor + 1 :=
    Fin.ext (Fin.val_add_one_of_lt (Fin.lt_def.2 h)).symm
  have stored : e.rxBuf.set e.rxCursor.val b = e.rxBuf.setIfInBounds e.rxCursor.val b := by
    simp [← Vector.toArray_inj, Array.setIfInBounds, h]
  rw [Engine.receive, dif_pos h, next, stored]

/-- A ninth byte is dropped (D6). -/
theorem Engine.receive_of_full {e : Engine} (b : Byte) (h : e.rxCursor.val = 8) :
    e.receive b = e := dif_neg (by omega)

/-- R113: a byte received outside the two write modes is spurious. -/
theorem exec_stDra_spurious (b : Byte) (hr : s.irq.run = .running)
    (he : s.engine.mode ≠ .epowerWrite) (hp : s.engine.mode ≠ .passthroughWrite) :
    exec (.stDra b) s = .next (s.finished s.engine []) := by
  have event : eventDra b s = s.finished s.engine [] := by
    unfold eventDra
    cases hm : s.engine.mode with
    | epowerWrite => exact absurd hm he
    | passthroughWrite => exact absurd hm hp
    | idle | epowerRead | passthroughRead => exact State.finish_finished _
  exact (ifRunning_running hr _).trans (congrArg _ event)

/-- Settles O7: in a write mode the engine receives the byte, and the cursor says whether there is
room. -/
theorem stDraStoresInWriteModesAndDropsOtherwise :
    Obligations.StDraStoresInWriteModesAndDropsOtherwise := by
  intro dat s hr
  refine ⟨fun hm room => ?_, fun hm full => ?_, exec_stDra_spurious dat hr⟩
  · rw [exec_stDra_of_write dat hr hm, Engine.receive_of_room dat room]
  · rw [exec_stDra_of_write dat hr hm, Engine.receive_of_full dat full]

/-! ### `ST_SPR` -/

/-- R114, R117: `ST_SPR` ends in `Idle`, unless the commit it makes never answers. -/
theorem exec_stSpr (hr : s.irq.run = .running) (hu : stopAction s.clearCalls = u) :
    exec .stSpr s = .next (if u.irq.run = .running then
      u.finished { u.engine with mode := .idle } u.env.calls else u) := by
  have finish : (u.setMode .idle).finish =
      u.finished { u.engine with mode := .idle } u.env.calls := State.finish_finished _
  have event : eventSpr s = u.andThen fun v => (v.setMode .idle).finish := by rw [eventSpr, hu]
  rw [← finish]
  exact (ifRunning_running hr _).trans (congrArg _ event)

/-- Where the action of `ST_SPR` makes no call, only the engine's registers are left to name. -/
theorem exec_stSpr_of_engine {e : Engine} (hr : s.irq.run = .running)
    (h : stopAction s.clearCalls = s.starting e 0) :
    exec .stSpr s = .next (s.finished { e with mode := .idle } []) :=
  (exec_stSpr hr h).trans (congrArg _ (if_pos hr))

theorem stopAction_passthroughCommit (hm : s.engine.mode = .passthroughWrite)
    (hc : s.engine.rxCursor = 2) :
    stopAction s = passthroughCommit s.engine.rxBuf[0] s.engine.rxBuf[1] s := by
  simp [stopAction, hm, hc]

/-- Any number of bytes but two only stays latched (R174, D7). -/
theorem stopAction_latch (hm : s.engine.mode = .epowerWrite ∨ s.engine.mode = .passthroughWrite)
    (hc : s.engine.rxCursor ≠ 2) : stopAction s = s := by
  rcases hm with hm | hm <;> simp [stopAction, hm, hc]

theorem stopAction_read (hm : s.engine.mode = .epowerRead ∨ s.engine.mode = .passthroughRead) :
    stopAction s = s.clearRx.clearTx := by
  rcases hm with hm | hm <;> simp [stopAction, hm]

theorem stopAction_idle (hm : s.engine.mode = .idle) : stopAction s = s := by
  simp [stopAction, hm]

/-- Settles O8: one clause per branch of `stopAction`; a settings commit never stops the run. -/
theorem stSprCommitsTwoBytesOrClearsReadCursors :
    Obligations.StSprCommitsTwoBytesOrClearsReadCursors := by
  intro s hr
  refine ⟨fun hm hc => ?ptWrite, fun hm hc => ?cmdWrite, fun hm => ?read, fun hm hc => ?latch,
    fun hm => ?idle⟩
  case ptWrite =>
    exact ⟨_, ifRunning_running hr _, exec_stSpr hr (stopAction_passthroughCommit hm hc)⟩
  case cmdWrite =>
    refine ⟨_, exec_decodeWrite (s := s.clearCalls) hr _ _, ?_, ?_⟩
    · rw [epowerCommit_irq]
      exact hr
    · exact (exec_stSpr_epowerCommit hr hm hc).trans (congrArg _ (State.finish_finished _))
  case read => exact exec_stSpr_of_engine hr (stopAction_read hm)
  case latch => exact exec_stSpr_of_engine hr (stopAction_latch hm hc)
  case idle =>
    have stays : { s.engine with mode := .idle } = s.engine := hm ▸ rfl
    rw [exec_stSpr_of_engine hr (stopAction_idle hm), stays]

/-- The bridge row of the bytes received: `PT_WRITE` for exactly two, `PT_LATCH` else (R171, R174).
-/
theorem decodePtStop_latched (e : Engine) :
    decodePtStop e.latched =
      if e.rxCursor = 2 then .ptWrite e.rxBuf[0] e.rxBuf[1] else .ptLatch := by
  have len := e.length_latched
  split_ifs with hc
  · have two : e.latched.length = 2 := by rw [len, hc]; rfl
    rw [Engine.rxBuf_of_latched (by decide) (by omega),
      Engine.rxBuf_of_latched (by decide) (by omega)]
    obtain ⟨reg, v, hl⟩ := List.length_eq_two.1 two
    simp [hl, decodePtStop]
  · have other : e.latched.length ≠ 2 := fun two => hc (Fin.ext (len.symm.trans two))
    match hl : e.latched, other with
    | [], _ | [_], _ | _ :: _ :: _ :: _, _ => rfl

/-- Settles O37: the row runs, or latches, as `stopAction` does in `PassthroughWrite`. -/
theorem stSprRunsTheBridgeRowOfTheLatchedPayload :
    Obligations.StSprRunsTheBridgeRowOfTheLatchedPayload := by
  intro s hr hm
  refine ⟨stopAction s.clearCalls, ?_, exec_stSpr hr rfl⟩
  rw [decodePtStop_latched]
  split_ifs with hc
  · rw [stopAction_passthroughCommit (s := s.clearCalls) hm hc]
    exact ifRunning_running hr _
  · rw [stopAction_latch (s := s.clearCalls) (.inr hm) hc]
    exact ifRunning_running hr _

/-! ### `ST_SRA` -/

/-- R116: where no command is latched, a draw is resolved in its place (D8). -/
theorem exec_stSra_drawn (hr : s.irq.run = .running) (hd : decodeDevice dat = .epower)
    (hc : s.engine.rxCursor = 0) :
    exec (.stSra dat) s =
      .next ((resolveRead s.freeByte s.reading.tookDraw).andThen State.finishTransmit) := by
  have select : selectCommand s.reading resolveRead =
      resolveRead s.freeByte s.reading.tookDraw := if_pos hc
  have event : eventSra dat s =
      (selectCommand s.reading resolveRead).andThen State.finishTransmit := by
    unfold eventSra
    rw [hd]
    rfl
  rw [← select, ← event]
  exact ifRunning_running hr _

theorem exec_stSra_pmic (hr : s.irq.run = .running) (hd : decodeDevice dat = .pmic) :
    exec (.stSra dat) s = .next ((passthroughFirst
      (s.clearCalls.setMode .passthroughRead)).andThen State.finishTransmit) := by
  have event : eventSra dat s = (passthroughFirst
      (s.clearCalls.setMode .passthroughRead)).andThen State.finishTransmit := by
    unfold eventSra
    rw [hd]
  exact (ifRunning_running hr _).trans (congrArg _ event)

/-- An address of neither device writes no byte (D11). -/
theorem exec_stSra_none (hr : s.irq.run = .running) (hd : decodeDevice dat = .none) :
    exec (.stSra dat) s = .next (s.unanswered { s.engine with mode := .idle } []) := by
  have event : eventSra dat s = (s.clearCalls.setMode .idle).finishTransmit := by
    unfold eventSra
    rw [hd]
  have silent : (s.clearCalls.setMode .idle).finishTransmit =
      s.unanswered { s.engine with mode := .idle } [] :=
    State.finishTransmit_unanswered rfl rfl rfl rfl rfl rfl
  exact (ifRunning_running hr _).trans (congrArg _ (event.trans silent))

/-- Settles O9: the row that a level decodes does what `ResolveRead` or `PassthroughFirst` does. -/
theorem stSraRunsTheSelectedRead : Obligations.StSraRunsTheSelectedRead := by
  intro dat s hr
  exact ⟨
    fun hd hc => ⟨_, exec_decodeRead (s := s.reading) hr _, exec_stSra_latched hr hd hc⟩,
    fun hd hc => ⟨_, exec_decodeRead (s := s.reading.tookDraw) hr _, exec_stSra_drawn hr hd hc⟩,
    fun hd => ⟨_, exec_decodePtFirst (s := s.clearCalls.setMode .passthroughRead) hr,
      exec_stSra_pmic hr hd⟩,
    exec_stSra_none hr⟩

/-! ### `ST_DSA`, `ST_DSN` and `ST_OTHER` -/

/-- R118: outside the two read modes the sentinel is sent. -/
theorem exec_stDsa_sentinel (hr : s.irq.run = .running)
    (hm : s.engine.mode = .idle ∨ s.engine.mode = .epowerWrite ∨
      s.engine.mode = .passthroughWrite) :
    exec .stDsa s = .next (s.responded s.engine [] errByte) := by
  have event : eventDsa s = (s.clearCalls.datWrite errByte).finishTransmit := by
    unfold eventDsa
    rcases hm with hm | hm | hm <;> rw [hm]
  have sent : (s.clearCalls.datWrite errByte).finishTransmit = s.responded s.engine [] errByte :=
    State.finishTransmit_responded rfl rfl rfl rfl rfl
  exact (ifRunning_running hr _).trans (congrArg _ (event.trans sent))

theorem exec_stDsa_passthrough (hr : s.irq.run = .running)
    (hm : s.engine.mode = .passthroughRead) :
    exec .stDsa s = .next ((passthroughNext s.clearCalls).andThen State.finishTransmit) := by
  have event : eventDsa s = (passthroughNext s.clearCalls).andThen State.finishTransmit := by
    unfold eventDsa
    rw [hm]
  exact (ifRunning_running hr _).trans (congrArg _ event)

/-- Settles O12: one clause per mode, and in `EpowerRead` by whether bytes are queued. -/
theorem stDsaSendsQueuedStagedSentinelOrForwarded :
    Obligations.StDsaSendsQueuedStagedSentinelOrForwarded := by
  intro s hr
  exact ⟨exec_stDsa_queued hr, exec_stDsa_staged hr, exec_stDsa_sentinel hr,
    fun hm => ⟨_, ifRunning_running hr _, exec_stDsa_passthrough hr hm⟩⟩

/-- Settles O13: the event clears the two cursors and finishes, in every mode. -/
theorem stDsnClearsBothCursors : Obligations.StDsnClearsBothCursors := fun _ hr => exec_stDsn hr

/-- R120. -/
theorem exec_stOther (code : Byte) (hr : s.irq.run = .running) :
    exec (.stOther code) s = .next
      { s.finished s.engine [.ctlStartSet] with
        ctl := { s.ctl with start := true, ackEnable := true, intFlag := false } } :=
  (ifRunning_running hr _).trans (congrArg _ (State.finish_finished s.clearCalls.startSet))

/-- Settles O14: the event sets START and finishes; the status code plays no part. -/
theorem stOtherSetsStartAndChangesNoEngineRegister :
    Obligations.StOtherSetsStartAndChangesNoEngineRegister := fun code _ hr =>
  exec_stOther code hr

end Sys2Proof.Machine
end

section
/-! Proofs about the engine's events, 2. The frame table: which registers each event may change,
and which collaborators it may call (R122); and how an event that comes to its end does so (R111,
R121). -/

namespace Sys2Proof.Machine

variable {s t u : State} {cls : StatusClass} {dat : Byte}

/-! ### The frame table (R122) -/

/-- The event that may make a call of a collaborator; the controller's own calls are R111's. -/
def Call.maker : Call → Option StatusClass
  | .vrmWriteU8 _ _ | .settingsSet _ _ | .displayOrientation _ | .vrmEnableLine _ _ => some .spr
  | .settingsGet _ | .adcSample _ | .vrmReadU8 _ => some .sra
  | .vrmReadRaw => some .dsa
  | .datWrite _ | .ctlAckEnable | .ctlStartSet | .ctlFlagClear => none

/-- From `s` to `t` only what the row of `cls` in the frame table allows was changed or called. -/
structure Framed (cls : StatusClass) (s t : State) : Prop where
  rxBuf : t.engine.rxBuf = s.engine.rxBuf ∨ cls = .dra
  rxCursor : t.engine.rxCursor = s.engine.rxCursor ∨
    cls = .swa ∨ cls = .dra ∨ cls = .spr ∨ cls = .dsn
  txBuf : t.engine.txBuf = s.engine.txBuf ∨ cls = .sra
  staged : t.engine.staged = s.engine.staged ∨ cls = .sra
  txCursor : t.engine.txCursor = s.engine.txCursor ∨
    cls = .spr ∨ cls = .sra ∨ cls = .dsa ∨ cls = .dsn
  mode : t.engine.mode = s.engine.mode ∨ cls = .swa ∨ cls = .spr ∨ cls = .sra
  dev : t.dev = s.dev ∨ cls = .spr
  calls : ∀ c ∈ t.env.calls, c ∈ s.env.calls ∨ ∀ e ∈ c.maker, e = cls

theorem eq_or_trans {α : Type} {a b c : α} {p : Prop} (h : b = a ∨ p) (k : c = b ∨ p) :
    c = a ∨ p := by
  rcases h with rfl | h
  · exact k
  · exact .inr h

theorem Framed.trans (h : Framed cls s t) (k : Framed cls t u) : Framed cls s u where
  rxBuf := eq_or_trans h.rxBuf k.rxBuf
  rxCursor := eq_or_trans h.rxCursor k.rxCursor
  txBuf := eq_or_trans h.txBuf k.txBuf
  staged := eq_or_trans h.staged k.staged
  txCursor := eq_or_trans h.txCursor k.txCursor
  mode := eq_or_trans h.mode k.mode
  dev := eq_or_trans h.dev k.dev
  calls c hc := (k.calls c hc).elim (h.calls c) .inr

theorem Framed.andThen {k : State → State} (h : Framed cls s t) (hk : ∀ u, Framed cls u (k u)) :
    Framed cls s (t.andThen k) := by
  unfold State.andThen
  split_ifs
  · exact h.trans (hk t)
  · exact h

/-- An operation that leaves the engine and the devices alone and makes calls of its row. -/
theorem Framed.of_calls {cs : List Call} (he : t.engine = s.engine) (hd : t.dev = s.dev)
    (hc : t.env.calls = s.env.calls ++ cs) (hm : ∀ c ∈ cs, ∀ e ∈ c.maker, e = cls) :
    Framed cls s t where
  rxBuf := .inl (by rw [he])
  rxCursor := .inl (by rw [he])
  txBuf := .inl (by rw [he])
  staged := .inl (by rw [he])
  txCursor := .inl (by rw [he])
  mode := .inl (by rw [he])
  dev := .inl hd
  calls c h := (List.mem_append.1 (hc ▸ h)).imp_right (hm c)

theorem Framed.refl (s : State) : Framed cls s s :=
  .of_calls (cs := []) rfl rfl (by simp) (by simp)

/-! ### The operations -/

theorem framed_datWrite (b : Byte) (s : State) : Framed cls s (s.datWrite b) :=
  .of_calls rfl rfl rfl (by simp [Call.maker])

theorem framed_startSet (s : State) : Framed cls s s.startSet :=
  .of_calls rfl rfl rfl (by simp [Call.maker])

theorem framed_finish (s : State) : Framed cls s s.finish :=
  .of_calls rfl rfl (by rw [State.finish_env]) (by simp [Call.maker])

theorem State.finishTransmit_calls (s : State) :
    s.finishTransmit.env.calls = s.env.calls ++ [.ctlAckEnable, .ctlFlagClear] := by
  cases hw : wroteByte s.env.calls with
  | false => rw [State.finishTransmit_env_of_silent hw]
  | true => rw [State.finishTransmit_env_of_wrote hw]

theorem framed_finishTransmit (s : State) : Framed cls s s.finishTransmit :=
  .of_calls State.finishTransmit_engine State.finishTransmit_dev s.finishTransmit_calls
    (by simp [Call.maker])

theorem framed_tookDraw (s : State) : Framed cls s s.tookDraw :=
  .of_calls (cs := []) rfl rfl (by simp) (by simp)

theorem framed_wedge (s : State) : Framed cls s s.wedge :=
  .of_calls (cs := []) rfl rfl (by simp) (by simp)

theorem framed_setMode (h : cls = .swa ∨ cls = .spr ∨ cls = .sra) (m : Mode) (s : State) :
    Framed cls s (s.setMode m) :=
  ⟨.inl rfl, .inl rfl, .inl rfl, .inl rfl, .inl rfl, .inr h, .inl rfl, fun _ => .inl⟩

theorem framed_clearRx (h : cls = .swa ∨ cls = .dra ∨ cls = .spr ∨ cls = .dsn) (s : State) :
    Framed cls s s.clearRx :=
  ⟨.inl rfl, .inr h, .inl rfl, .inl rfl, .inl rfl, .inl rfl, .inl rfl, fun _ => .inl⟩

theorem framed_setTxCursor (h : cls = .spr ∨ cls = .sra ∨ cls = .dsa ∨ cls = .dsn) (c : Fin 4)
    (s : State) : Framed cls s (s.setTxCursor c) :=
  ⟨.inl rfl, .inl rfl, .inl rfl, .inl rfl, .inr h, .inl rfl, .inl rfl, fun _ => .inl⟩

theorem framed_clearTx (h : cls = .spr ∨ cls = .sra ∨ cls = .dsa ∨ cls = .dsn) (s : State) :
    Framed cls s s.clearTx := framed_setTxCursor h 0 s

theorem framed_receive (b : Byte) (s : State) : Framed .dra s (s.receive b) := by
  unfold State.receive Engine.receive
  split_ifs
  · exact ⟨.inr rfl, .inr (.inr (.inl rfl)), .inl rfl, .inl rfl, .inl rfl, .inl rfl, .inl rfl,
      fun _ => .inl⟩
  · exact .refl s

theorem framed_setStaged (b : Byte) (s : State) : Framed .sra s (s.setStaged b) :=
  ⟨.inl rfl, .inl rfl, .inl rfl, .inr rfl, .inl rfl, .inl rfl, .inl rfl, fun _ => .inl⟩

theorem framed_loadUid (s : State) : Framed .sra s s.loadUid :=
  ⟨.inl rfl, .inl rfl, .inr rfl, .inl rfl, .inl rfl, .inl rfl, .inl rfl, fun _ => .inl⟩

/-! ### The reads, the commits and the bridge -/

/-- Whatever the ADC answers (R58). -/
theorem framed_readMonitor (sel : Nat) (s : State) : Framed .sra s (readMonitor sel s) := by
  unfold readMonitor
  cases monTable sel with
  | none => exact .refl s
  | some ch =>
    have asked : Framed .sra s (s.askedAdc ch) := .of_calls rfl rfl rfl (by simp [Call.maker])
    dsimp only
    unfold readChannel State.adcSample
    cases s.adcAnswer ch with
    | sample v => exact (asked.trans (framed_datWrite _ _)).trans (framed_setStaged _ _)
    | hang => exact asked.trans (framed_wedge _)

theorem framed_readSetting (id : Nat) (s : State) : Framed .sra s (readSetting id s) := by
  have asked : Framed .sra s (s.record (.settingsGet id)) :=
    .of_calls rfl rfl rfl (by simp [Call.maker])
  exact asked.trans (framed_datWrite _ _)

theorem framed_readUid (s : State) : Framed .sra s (readUid s) :=
  ((framed_loadUid s).trans (framed_datWrite _ _)).trans (framed_setTxCursor (by simp) 3 _)

theorem framed_resolveRead (c : Byte) (s : State) : Framed .sra s (resolveRead c s) := by
  unfold resolveRead
  split_ifs
  · exact framed_datWrite _ s
  · exact framed_readUid s
  · exact (framed_tookDraw s).trans (framed_datWrite _ _)
  · exact framed_readSetting _ s
  · exact framed_readMonitor _ s
  · exact framed_datWrite _ s

/-- Whatever the downstream driver answers to a read (R57). -/
theorem framed_forwardRead {c : Call} (hc : ∀ e ∈ c.maker, e = cls) (s : State) :
    Framed cls s (s.forwardRead c) := by
  have asked : Framed cls s (s.askedVrmRead c) := .of_calls rfl rfl rfl (by simpa using hc)
  unfold State.forwardRead
  cases s.vrmReadAnswer with
  | ok b => exact asked.trans (framed_datWrite b _)
  | err => exact asked
  | hang => exact asked.trans (framed_wedge _)

/-- Whatever the downstream driver answers to a write (R57). -/
theorem framed_vrmWriteU8 (reg v : Byte) (s : State) : Framed .spr s (s.vrmWriteU8 reg v) := by
  have asked : Framed .spr s (s.askedVrmWrite reg v) :=
    .of_calls rfl rfl rfl (by simp [Call.maker])
  unfold State.vrmWriteU8
  cases s.vrmWriteAnswer with
  | ok => exact asked
  | err => exact asked
  | hang => exact asked.trans (framed_wedge _)

theorem framed_passthroughFirst (s : State) : Framed .sra s (passthroughFirst s) := by
  unfold passthroughFirst
  split_ifs
  · exact framed_datWrite _ s
  · exact framed_forwardRead (by simp [Call.maker]) s

/-- `ST_SPR` may change every device, so only the engine and the calls of a setting write are to
check. -/
theorem framed_of_setting {cs : List Call} (he : t.engine = s.engine)
    (hc : t.env.calls = s.env.calls ++ cs) (hm : ∀ c ∈ cs, ∀ e ∈ c.maker, e = .spr) :
    Framed .spr s t :=
  { Framed.of_calls (t := { t with dev := s.dev }) he rfl hc hm with dev := .inr rfl }

theorem framed_writeSetting (id : Nat) (v : Byte) (s : State) :
    Framed .spr s (writeSetting id v s) := by
  have stored : Framed .spr s (s.settingsSet id v) :=
    framed_of_setting rfl rfl (by simp [Call.maker])
  unfold writeSetting sideChannel
  split_ifs
  · exact stored.trans (framed_of_setting rfl rfl (by simp [Call.maker]))
  · exact stored.trans (framed_of_setting rfl rfl (by simp [Call.maker]))
  · exact stored.trans (framed_of_setting rfl rfl (by simp [Call.maker]))
  · exact stored

theorem framed_epowerCommit (c v : Byte) (s : State) : Framed .spr s (epowerCommit c v s) := by
  unfold epowerCommit
  split_ifs
  · exact framed_writeSetting _ v s
  · exact .refl s

theorem framed_stopAction (s : State) : Framed .spr s (stopAction s) := by
  unfold stopAction
  split
  · split_ifs
    · exact framed_vrmWriteU8 _ _ s
    · exact .refl s
  · split_ifs
    · exact framed_epowerCommit _ _ s
    · exact .refl s
  · exact (framed_clearRx (by simp) s).trans (framed_clearTx (by simp) _)
  · exact (framed_clearRx (by simp) s).trans (framed_clearTx (by simp) _)
  · exact .refl s

theorem framed_sendQueued (s : State) : Framed .dsa s (sendQueued s) := by
  unfold sendQueued
  split_ifs
  · exact framed_datWrite _ s
  · exact (framed_setTxCursor (by simp) _ s).trans (framed_datWrite _ _)

/-! ### The events -/

theorem framed_eventDra (dat : Byte) (s : State) : Framed .dra s.clearCalls (eventDra dat s) := by
  unfold eventDra
  split
  · exact (framed_receive dat _).trans (framed_finish _)
  · exact (framed_receive dat _).trans (framed_finish _)
  · exact framed_finish _
  · exact framed_finish _
  · exact framed_finish _

theorem framed_eventSra (dat : Byte) (s : State) : Framed .sra s.clearCalls (eventSra dat s) := by
  have entered : ∀ m, Framed .sra s.clearCalls (s.clearCalls.setMode m) := fun m =>
    framed_setMode (by simp) m _
  unfold eventSra selectCommand
  split
  · refine Framed.andThen ((entered .epowerRead).trans ?_) framed_finishTransmit
    split_ifs
    · exact (framed_tookDraw _).trans (framed_resolveRead _ _)
    · exact framed_resolveRead _ _
  · exact Framed.andThen ((entered _).trans (framed_passthroughFirst _)) framed_finishTransmit
  · exact (entered _).trans (framed_finishTransmit _)

theorem framed_eventDsa (s : State) : Framed .dsa s.clearCalls (eventDsa s) := by
  unfold eventDsa
  split
  · exact Framed.andThen (framed_forwardRead (by simp [Call.maker]) _) framed_finishTransmit
  · exact (framed_sendQueued _).trans (framed_finishTransmit _)
  · exact (framed_datWrite _ _).trans (framed_finishTransmit _)
  · exact (framed_datWrite _ _).trans (framed_finishTransmit _)
  · exact (framed_datWrite _ _).trans (framed_finishTransmit _)

/-- Every event keeps to its row of the frame table; the record of calls starts empty. -/
theorem framed_engineStep (cls : StatusClass) (dat : Byte) (s : State) :
    Framed cls s.clearCalls (engineStep cls dat s) := by
  cases cls with
  | swa =>
    exact ((framed_setMode (by simp) _ _).trans (framed_clearRx (by simp) _)).trans
      (framed_finish _)
  | dra => exact framed_eventDra dat s
  | spr =>
    exact (framed_stopAction s.clearCalls).andThen fun u =>
      (framed_setMode (by simp) .idle u).trans (framed_finish _)
  | sra => exact framed_eventSra dat s
  | dsa => exact framed_eventDsa s
  | dsn =>
    exact ((framed_clearRx (by simp) _).trans (framed_clearTx (by simp) _)).trans
      (framed_finish _)
  | other => exact (framed_startSet _).trans (framed_finish _)

/-- Settles O16: every clause is the column of the frame table that bears its register's name. -/
theorem eventsChangeOnlyTheirRegisters : Obligations.EventsChangeOnlyTheirRegisters := by
  intro i s t hf hx
  obtain ⟨-, cls, dat, rfl, rfl⟩ := exec_status_eq_next hf hx
  obtain ⟨rxBuf, rxCursor, txBuf, staged, txCursor, mode, dev, calls⟩ :=
    framed_engineStep cls dat s
  refine ⟨fun h => ?rxBuf, fun h => ?rxCursor, fun h => ?txBuf, fun h => ?txCursor,
    fun h => ?mode, fun h => ?dev, fun c hc hdat hctl => ?calls⟩
  case rxBuf =>
    obtain rfl := rxBuf.resolve_left h
    exact ⟨dat, rfl⟩
  case rxCursor => rcases rxCursor.resolve_left h with rfl | rfl | rfl | rfl <;> simp
  case txBuf =>
    obtain rfl := h.elim txBuf.resolve_left staged.resolve_left
    exact ⟨dat, rfl⟩
  case txCursor => rcases txCursor.resolve_left h with rfl | rfl | rfl | rfl <;> simp
  case mode => rcases mode.resolve_left h with rfl | rfl | rfl <;> simp
  case dev =>
    obtain rfl := dev.resolve_left h
    rfl
  case calls =>
    have maker := (calls c hc).resolve_left (by simp)
    cases c with
    | vrmWriteU8 | settingsSet | displayOrientation | vrmEnableLine =>
      obtain rfl := maker _ rfl
      simp
    | settingsGet | adcSample | vrmReadU8 =>
      obtain rfl := maker _ rfl
      simp
    | vrmReadRaw =>
      obtain rfl := maker _ rfl
      simp
    | datWrite => cases hdat
    | ctlAckEnable | ctlStartSet | ctlFlagClear => simp at hctl

/-! ### The next mode (R121) -/

/-- The mode that an `ST_SRA` enters (R115). -/
def readMode : Device → Mode
  | .epower => .epowerRead
  | .pmic => .passthroughRead
  | .none => .idle

theorem readMode_decodeDevice (dat : Byte) :
    readMode (decodeDevice dat) =
      if addr7 dat = Config.addrEpower then .epowerRead
      else if addr7 dat = Config.addrPmic then .passthroughRead else .idle := by
  unfold decodeDevice
  split_ifs <;> rfl

theorem resolveRead_mode (c : Byte) (s : State) :
    (resolveRead c s).engine.mode = s.engine.mode := by
  unfold resolveRead
  split_ifs
  · rfl
  · rfl
  · rfl
  · rfl
  · exact (leavesDevices_readMonitor _ s).mode
  · rfl

theorem passthroughFirst_mode (s : State) :
    (passthroughFirst s).engine.mode = s.engine.mode := by
  unfold passthroughFirst
  split_ifs
  · rfl
  · exact (leavesDevices_forwardRead _ s).mode

theorem State.andThen_finishTransmit_engine (s : State) :
    (s.andThen State.finishTransmit).engine = s.engine := by
  unfold State.andThen
  split_ifs
  · exact State.finishTransmit_engine
  · rfl

/-- The read mode is entered first, and no read changes it. -/
theorem eventSra_mode (dat : Byte) (s : State) :
    (eventSra dat s).engine.mode = readMode (decodeDevice dat) := by
  unfold eventSra selectCommand
  cases decodeDevice dat with
  | epower =>
    dsimp only
    rw [State.andThen_finishTransmit_engine]
    split_ifs <;> exact resolveRead_mode _ _
  | pmic =>
    dsimp only
    rw [State.andThen_finishTransmit_engine, passthroughFirst_mode]
    rfl
  | none =>
    dsimp only
    rw [State.finishTransmit_engine]
    rfl

/-- A stop that comes to its end has entered `Idle`, whatever it committed. -/
theorem eventSpr_mode (h : (eventSpr s).irq.run = .running) :
    (eventSpr s).engine.mode = .idle := by
  unfold eventSpr at h ⊢
  by_cases run : (stopAction s.clearCalls).irq.run = .running
  · rw [State.andThen_running run]
    rfl
  · rw [State.andThen_stopped run] at h
    exact absurd h run

theorem engineStep_keeps_mode (h : ¬ (cls = .swa ∨ cls = .spr ∨ cls = .sra)) (dat : Byte)
    (s : State) : (engineStep cls dat s).engine.mode = s.engine.mode :=
  (framed_engineStep cls dat s).mode.resolve_right h

/-- Settles O15: an address event sets the mode of its device, a stop sets `Idle`, and by the frame
table no other event changes the mode. -/
theorem nextModeDependsOnTheEventAlone : Obligations.NextModeDependsOnTheEventAlone := by
  intro dat code s t ht
  refine ⟨fun h => ?swa, fun h => ?sra, fun h => ?spr, fun i hi h => ?others⟩
  case swa =>
    obtain ⟨-, he⟩ := ifRunning_eq_next.1 h
    cases he
    exact writeMode_decodeDevice dat
  case sra =>
    obtain ⟨-, he⟩ := ifRunning_eq_next.1 h
    cases he
    rw [eventSra_mode, readMode_decodeDevice]
  case spr =>
    obtain ⟨-, he⟩ := ifRunning_eq_next.1 h
    cases he
    exact eventSpr_mode ht
  case others =>
    simp only [List.mem_cons, List.not_mem_nil, or_false] at hi
    rcases hi with rfl | rfl | rfl | rfl <;> obtain ⟨-, he⟩ := ifRunning_eq_next.1 h <;> cases he
    · exact engineStep_keeps_mode (cls := .dra) (by simp) dat s
    · exact engineStep_keeps_mode (cls := .dsa) (by simp) dat s
    · exact engineStep_keeps_mode (cls := .dsn) (by simp) dat s
    · exact engineStep_keeps_mode (cls := .other) (by simp) dat s

/-! ### The end of an event (R111) -/

/-- Settles O17: an event after which the run goes on was not blocked, so it ended in full. -/
theorem eventsEndWithFinishAndWriteAtMostOnce :
    Obligations.EventsEndWithFinishAndWriteAtMostOnce := by
  intro i s t hf hx ht
  obtain ⟨hr, cls, dat, rfl, rfl⟩ := exec_status_eq_next hf hx
  have ended := engineStep_ended cls dat hr
  generalize engineStep cls dat s = t at ht ended ⊢
  cases ended with
  | blocked c n _ hirq => simp [hirq] at ht
  | full cs hirq hack hflag hstart hcalls hclear hone htransmit =>
    have count : t.env.calls.countP Call.isDatWrite = cs.countP Call.isDatWrite := by
      simp [hcalls, List.countP_append, Call.isDatWrite]
    rw [count]
    refine ⟨⟨cs, hcalls, hclear⟩, hack, hflag, hone, fun hwrote => ?_⟩
    rcases htransmit hwrote with rfl | rfl
    · exact .inl ⟨dat, rfl⟩
    · exact .inr rfl

end Sys2Proof.Machine
end

section
/-! Proofs about the register map (41_register_map.md), 1. What each CMD_READ row does, as a whole
next state (R141 to R147). -/

namespace Sys2Proof.Machine

variable {s : State}

/-- A row of a running state ends in the state that its operation gives. -/
theorem ifRunning_next {t u : State} (hr : s.irq.run = .running) (h : t = u) :
    ifRunning s (.next t) = .next u :=
  ifRunning_eq_next.2 ⟨hr, congrArg _ h⟩

/-! ### One byte at once -/

/-- Settles O19: the row is one `DatWrite` of the version. -/
theorem readVersionWritesTheVersionByte : Obligations.ReadVersionWritesTheVersionByte :=
  fun _ hr => ifRunning_running hr _

/-- Settles O25: the command plays no part in the sentinel. -/
theorem reservedReadsWriteTheSentinel : Obligations.ReservedReadsWriteTheSentinel :=
  fun _ _ hr => ifRunning_running hr _

/-- Settles O21: both rows run the one undefined constant. -/
theorem undefinedConstantReadsWriteOneDraw : Obligations.UndefinedConstantReadsWriteOneDraw := by
  intro n s hr i hi
  simp only [List.mem_cons, List.not_mem_nil, or_false] at hi
  rcases hi with rfl | rfl
  · exact ifRunning_running hr _
  · exact ifRunning_running hr _

/-- Settles O24: the monitoring table ends at selector 4. -/
theorem unmappedReadsDoNothing : Obligations.UnmappedReadsDoNothing := fun _ s hr h =>
  ifRunning_next hr (readMonitor_unmapped h s)

/-! ### The unique identifier -/

/-- The send buffer's four bytes, written out with the least significant one first (R91, D13). -/
theorem uidBuf_eq : uidBuf = #v[Config.deviceUid.extractLsb' 0 8, Config.deviceUid.extractLsb' 8 8,
    Config.deviceUid.extractLsb' 16 8, Config.deviceUid.extractLsb' 24 8] := rfl

/-- Settles O20: the byte sent is the last of the four loaded. -/
theorem readUidLoadsTheBufferAndWritesTheTopByte :
    Obligations.ReadUidLoadsTheBufferAndWritesTheTopByte := by
  intro s hr
  rw [← uidBuf_eq]
  exact ifRunning_running hr _

/-! ### Settings -/

theorem settingAt_recognized (m : Memory) {id : Nat} (h : id < 7) :
    settingAt m id = Memory.read m id := if_pos h

/-- R144: one `SettingsGet`, and its answer is written. -/
theorem readSetting_eq (id : Nat) (s : State) :
    readSetting id s =
      { s with
        ctl := { s.ctl with data := settingAt s.dev.settings id }
        env := { s.env with
          calls := s.env.calls ++
            [.settingsGet id, .datWrite (settingAt s.dev.settings id)] } } :=
  State.eq_of_parts rfl rfl rfl rfl (by simp [readSetting, State.settingsGet])

/-- Settles O22: the store answers what it holds for ids 0 to 6, and 0 for any other. -/
theorem settingReadsAnswerTheStoredByteOrZero :
    Obligations.SettingReadsAnswerTheStoredByteOrZero := by
  intro id s hr
  refine ⟨fun h => ?recognized, fun h => ?unrecognized⟩
  case recognized =>
    rw [← settingAt_recognized s.dev.settings (Nat.lt_succ_of_le h), ← readSetting_eq]
    exact ifRunning_running hr _
  case unrecognized =>
    rw [← settingAt_unrecognized s.dev.settings h, ← readSetting_eq]
    exact ifRunning_running hr _

/-! ### Telemetry -/

/-- R145: an answered sample, split between the response and the staged byte. -/
theorem readChannel_of_sample {ch : Nat} {v : Sample} (h : s.adcAnswer ch = .sample v) :
    readChannel ch s =
      { s with
        engine := { s.engine with staged := sampleLo v }
        ctl := { s.ctl with data := sampleHi v }
        env := { s.env with
          calls := s.env.calls ++ [.adcSample ch, .datWrite (sampleHi v)]
          adc := s.env.adc.tail, draws := s.env.draws + 1 } } := by
  have answered : readChannel ch s =
      ((s.askedAdc ch).datWrite (sampleHi v)).setStaged (sampleLo v) := by
    simp only [readChannel, State.adcSample, h]
  rw [answered]
  exact State.eq_of_parts rfl rfl rfl rfl (by simp)

/-- R117: a conversion that never ends. -/
theorem readChannel_of_hang {ch : Nat} (h : s.adcAnswer ch = .hang) :
    readChannel ch s = (s.askedAdc ch).wedge := by
  simp only [readChannel, State.adcSample, h]

/-- R87: each telemetry row reads the channel that `MON_TABLE` gives its selector. -/
theorem exec_readTelemetry (hr : s.irq.run = .running) {p : Instr × Nat}
    (hp : p ∈ [(Instr.readTelemetry0, 2), (.readTelemetry1, 1), (.readTelemetry2, 8),
      (.readTelemetry3, 10), (.readTelemetry4, 9)]) :
    exec p.1 s = .next (readChannel p.2 s) := by
  simp only [List.mem_cons, List.not_mem_nil, or_false] at hp
  rcases hp with rfl | rfl | rfl | rfl | rfl <;> exact ifRunning_running hr _

/-- Settles O23: the row reads its channel, and the ADC answers with a sample or never. -/
theorem telemetryReadsSplitOneSampleOfTheirChannel :
    Obligations.TelemetryReadsSplitOneSampleOfTheirChannel := by
  intro s hr p hp
  rw [exec_readTelemetry hr hp]
  exact ⟨fun _ h => congrArg _ (readChannel_of_sample h),
    fun h => congrArg _ (readChannel_of_hang h)⟩

end Sys2Proof.Machine
end

section
/-! Proofs about the register map, 2. What each CMD_WRITE row does (R148 to R152), and the law that
a written setting reads back (R56, R149). -/

namespace Sys2Proof.Machine

variable {s : State}

/-- Settles O30: both rows leave the state as it is. -/
theorem writesOutsideTheSettingsBandChangeNothing :
    Obligations.WritesOutsideTheSettingsBandChangeNothing := fun _ _ _ _ hr =>
  ⟨ifRunning_running hr _, ifRunning_running hr _⟩

/-! ### The side channels -/

theorem settingPut_recognized (m : Memory) {id : Nat} (v : Byte) (h : id < 7) :
    settingPut m id v = Memory.write m id v := if_pos h

/-- R149: only the ids 4, 5 and 6 have a side channel. -/
theorem sideChannel_none {id : Nat} (h4 : id ≠ 4) (h5 : id ≠ 5) (h6 : id ≠ 6) (v : Byte)
    (s : State) : sideChannel id v s = s := by
  rw [sideChannel, if_neg h4, if_neg h5, if_neg h6]

/-- R150: an id that is not recognized stores nothing and drives nothing; the call is made. -/
theorem writeSetting_unrecognized {id : Nat} (h : 7 ≤ id) (v : Byte) (s : State) :
    writeSetting id v s = s.record (.settingsSet id v) := by
  rw [writeSetting, sideChannel_none (by omega) (by omega) (by omega), State.settingsSet,
    settingPut_unrecognized _ v h]
  rfl

/-- Settles O28: the store is written, and then the id says which side channel is driven. -/
theorem recognizedSettingWritesStoreAndDriveTheirSideChannel :
    Obligations.RecognizedSettingWritesStoreAndDriveTheirSideChannel := by
  intro id v s hr
  refine ⟨?plain, ?line1, ?line2, ?orientation⟩
  case plain =>
    rw [← settingPut_recognized _ v (by omega)]
    exact ifRunning_next hr (sideChannel_none (by omega) (by omega) (by omega) v _)
  case line1 =>
    have sent : writeSetting 4 v s = (s.settingsSet 4 v).sendEnable1 v := rfl
    exact ifRunning_next hr (sent.trans (State.eq_of_parts rfl rfl rfl rfl (by simp)))
  case line2 =>
    have sent : writeSetting 5 v s = (s.settingsSet 5 v).sendEnable2 v := rfl
    exact ifRunning_next hr (sent.trans (State.eq_of_parts rfl rfl rfl rfl (by simp)))
  case orientation =>
    have sent : writeSetting 6 v s = (s.settingsSet 6 v).sendOrientation v := rfl
    exact ifRunning_next hr (sent.trans (State.eq_of_parts rfl rfl rfl rfl (by simp)))

/-! ### A write and the read that follows it -/

/-- Settles O29: only the call is recorded, so the store still answers 0 for the id. -/
theorem unrecognizedSettingWritesStoreNothing :
    Obligations.UnrecognizedSettingWritesStoreNothing := by
  intro id v s hr h
  have answer : ∀ t, (readSetting id.toNat t).ctl.data = 0#8 := fun t =>
    settingAt_unrecognized t.dev.settings h
  exact ⟨s.record (.settingsSet id.toNat v), ifRunning_next hr (writeSetting_unrecognized h v s),
    rfl, _, ifRunning_running hr _, answer _⟩

/-- R148: a command of the settings band stores at its id. -/
theorem epowerCommit_settings {c : Byte} (h1 : 64 ≤ c.toNat) (h2 : c.toNat ≤ 127) (v : Byte)
    (s : State) :
    (epowerCommit c v s).dev.settings = settingPut s.dev.settings (settingId c) v := by
  rw [epowerCommit, if_pos ⟨h1, h2⟩, writeSetting_settings]

/-- Settles O31: the read answers the store's content after the write, and changes no setting. -/
theorem settingWriteThenReadAnswersTheValueWritten :
    Obligations.SettingWriteThenReadAnswersTheValueWritten := by
  intro c v s hr h1 h2
  have stored := epowerCommit_settings h1 (by omega) v s
  have recognized : settingId c < 7 := by unfold settingId; omega
  have read := exec_decodeRead (s := epowerCommit c v s) (by rw [epowerCommit_irq, hr]) c
  rw [resolveRead_setting h1 (by omega)] at read
  refine ⟨_, _, exec_decodeWrite hr c v, read, ?value, fun id hid => ?other⟩
  case value =>
    show settingAt (epowerCommit c v s).dev.settings (settingId c) = v
    rw [stored, settingAt_put_same _ v recognized]
  case other =>
    show settingAt (epowerCommit c v s).dev.settings id = settingAt s.dev.settings id
    rw [stored, settingAt_put_other (id := settingId c) _ v hid]

end Sys2Proof.Machine
end

section
/-! Proofs about the pass-through bridge (42_passthrough.md): what the two downstream calls do for
each answer, and each PT row as a whole next state (R171 to R174, R211). -/

namespace Sys2Proof.Machine

variable {s : State}

/-! ### The downstream write -/

/-- R171: success and failure leave the same state behind. -/
theorem State.vrmWriteU8_of_answered (h : s.vrmWriteAnswer ≠ .hang) (reg v : Byte) :
    s.vrmWriteU8 reg v = s.askedVrmWrite reg v := by
  unfold State.vrmWriteU8
  cases ha : s.vrmWriteAnswer with
  | ok => rfl
  | err => rfl
  | hang => exact absurd ha h

theorem State.vrmWriteU8_of_hang (h : s.vrmWriteAnswer = .hang) (reg v : Byte) :
    s.vrmWriteU8 reg v = (s.askedVrmWrite reg v).wedge := by
  simp only [State.vrmWriteU8, h]

/-- Settles O33: the row is one `VrmWriteU8`, which the driver answers, either way, or never does. -/
theorem ptWriteForwardsOneRegisterWrite : Obligations.PtWriteForwardsOneRegisterWrite :=
  fun reg v _ hr => ⟨fun h => ifRunning_next hr (State.vrmWriteU8_of_answered h reg v),
    fun h => ifRunning_next hr (State.vrmWriteU8_of_hang h reg v)⟩

/-! ### The downstream reads -/

/-- R172, R173: the byte that comes is the response. -/
theorem State.forwardRead_of_ok {b : Byte} (h : s.vrmReadAnswer = .ok b) (c : Call) :
    s.forwardRead c = (s.askedVrmRead c).datWrite b := by
  simp only [State.forwardRead, h]

/-- R211: an error leaves the slot without a byte. -/
theorem State.forwardRead_of_err (h : s.vrmReadAnswer = .err) (c : Call) :
    s.forwardRead c = s.askedVrmRead c := by
  simp only [State.forwardRead, h]

theorem State.forwardRead_of_hang (h : s.vrmReadAnswer = .hang) (c : Call) :
    s.forwardRead c = (s.askedVrmRead c).wedge := by
  simp only [State.forwardRead, h]

/-- A read that brings a byte records two calls: the read, and the byte's `DatWrite`. -/
theorem State.askedVrmRead_datWrite (c : Call) (b : Byte) (s : State) :
    (s.askedVrmRead c).datWrite b =
      { s with
        ctl := { s.ctl with data := b }
        env := { s.env with
          calls := s.env.calls ++ [c, .datWrite b]
          vrmRead := s.env.vrmRead.tail, draws := s.env.draws + 1 } } :=
  State.eq_of_parts rfl rfl rfl rfl (by simp)

/-- R172, R173: the rows of the first and of a further byte differ in the call alone. -/
theorem exec_ptForward (hr : s.irq.run = .running) {reg : Byte} {p : Instr × Call}
    (hp : p ∈ [(Instr.ptReadFirst reg, Call.vrmReadU8 reg), (.ptReadNext, .vrmReadRaw)]) :
    exec p.1 s = .next (s.forwardRead p.2) := by
  simp only [List.mem_cons, List.not_mem_nil, or_false] at hp
  rcases hp with rfl | rfl
  · exact ifRunning_running hr _
  · exact ifRunning_running hr _

/-- Settles O35: the row is one downstream read, and the driver answers with a byte, an error or
never. -/
theorem bridgeReadsForwardTheByteOrNothing : Obligations.BridgeReadsForwardTheByteOrNothing := by
  intro reg s hr p hp
  rw [exec_ptForward hr hp]
  refine ⟨fun b h => ?byte, fun h => ?error, fun h => ?silence⟩
  case byte => rw [State.forwardRead_of_ok h, State.askedVrmRead_datWrite]
  case error => exact congrArg _ (State.forwardRead_of_err h p.2)
  case silence => exact congrArg _ (State.forwardRead_of_hang h p.2)

/-! ### The rows without a downstream call -/

/-- Settles O34: the row is one `DatWrite` of the probe byte. -/
theorem ptReadProbeWritesThePlaceholder : Obligations.PtReadProbeWritesThePlaceholder :=
  fun _ hr => ifRunning_running hr _

/-- Settles O36: the row's next state is the state itself. -/
theorem ptLatchChangesNothing : Obligations.PtLatchChangesNothing :=
  fun _ hr => ifRunning_running hr _

end Sys2Proof.Machine
end

section
/-! Proofs about the dispatcher (43_dispatcher.md): the startup code's two operations, and each
dispatch as a whole next state (R190 to R197). -/

namespace Sys2Proof.Machine

variable {s : State}

/-! ### The startup code's operations (R190, R191) -/

/-- R190: where a context exists, `INSTALL` ends the run. -/
theorem installContext_of_installed (h : s.irq.ctxInstalled = true) :
    installContext s = s.raiseFatal := if_pos h

theorem installContext_of_not_installed (h : s.irq.ctxInstalled = false) :
    installContext s =
      { s with
        engine := freshEngine s.env.draws
        irq := { s.irq with ctxInstalled := true }
        env := { s.env with draws := s.env.draws + 13 } } := if_neg (by simp [h])

/-- The receive buffer of a fresh engine holds the first eight draws. -/
theorem freshEngine_rxBuf (n : Nat) (k : Fin 8) :
    (freshEngine n).rxBuf[k] = Config.drawU8 (n + k.val) := by
  simp [freshEngine]

/-- The send buffer of a fresh engine holds the four draws after those. -/
theorem freshEngine_txBuf (n : Nat) (k : Fin 4) :
    (freshEngine n).txBuf[k] = Config.drawU8 (n + 8 + k.val) := by
  simp [freshEngine]

/-- Settles O38: the new engine is the fresh one, so its registers are those of `freshEngine`. -/
theorem installCreatesTheContextOnce : Obligations.InstallCreatesTheContextOnce := by
  intro s hr
  refine ⟨fun hc => ⟨_, ifRunning_next hr (installContext_of_not_installed hc), ?_⟩, fun hc =>
    ifRunning_next hr (installContext_of_installed hc)⟩
  exact ⟨rfl, rfl, rfl, rfl, rfl, freshEngine_rxBuf _, freshEngine_txBuf _, rfl, rfl, rfl⟩

/-- Settles O39: the context alone decides between the step and the refusal. -/
theorem unmaskNeedsTheContext : Obligations.UnmaskNeedsTheContext := by
  intro s hr
  refine ⟨fun hc => ?installed, fun hc => ?missing⟩
  case installed => exact (ifRunning_running hr _).trans (if_pos hc)
  case missing => exact (ifRunning_running hr _).trans (if_neg (by simp [hc]))

/-! ### The I2C dispatch (R192, R193) -/

/-- Settles O40: the row decoded from the status is the engine's step of its class, after which the
dispatch goes on to its end only in a running state. -/
theorem i2cDispatchRunsTheDecodedEvent : Obligations.I2cDispatchRunsTheDecodedEvent := by
  intro status dat s hr hc hm hp he
  have enabled : s.irq.enables .i2c = true := Dispatcher.enables_iff.2 ⟨hc, hm, hp⟩
  have entered : s.enterHandler .i2c = s.enteredI2c := rfl
  refine ⟨_, exec_decodeStatus (s := s.enteredI2c) hr status dat, ?_⟩
  rw [exec_irqI2c_of_event he, runHandler_enabled hr enabled, i2cDispatch_eq, entered]

/-! ### The other dispatches (R192, R194 to R197) -/

/-- R192, R222: a dispatch whose action leaves the run going ends with the mask released. -/
theorem runHandler_of_return {src : Source} {action : State → State} {u : State}
    (hr : s.irq.run = .running) (he : s.irq.enables src = true)
    (hu : action (s.enterHandler src) = u) (hrun : u.irq.run = .running) :
    runHandler src action s = .next u.leaveHandler := by
  rw [runHandler_enabled hr he, hu, State.andThen_running hrun]

/-- R192, R117: a dispatch in which a call never answers ends where its action stopped. -/
theorem runHandler_of_hang {src : Source} {action : State → State} {u : State}
    (hr : s.irq.run = .running) (he : s.irq.enables src = true)
    (hu : action (s.enterHandler src) = u) (hrun : u.irq.run ≠ .running) :
    runHandler src action s = .next u := by
  rw [runHandler_enabled hr he, hu, State.andThen_stopped hrun]

/-- Settles O41: the action writes the display and the settings, and the handler returns. -/
theorem buttonDispatchLeavesTheEngineAlone :
    Obligations.ButtonDispatchLeavesTheEngineAlone := by
  intro k s hr hc hm hk
  have enabled : s.irq.enables (.button k) = true :=
    Dispatcher.enables_iff.2 ⟨hc, hm, decide_eq_true hk⟩
  exact runHandler_of_return (action := buttonAction k) hr enabled rfl hr

/-- Settles O42: the action writes the display, and the handler returns. -/
theorem dispTimerDispatchChangesTheDisplayOnly :
    Obligations.DispTimerDispatchChangesTheDisplayOnly := by
  intro s hr hc hm hp
  have enabled : s.irq.enables .dispTimer = true := Dispatcher.enables_iff.2 ⟨hc, hm, hp⟩
  exact runHandler_of_return (action := dispAction) hr enabled rfl hr

theorem telemAction_of_done {d : Display} (h : s.telemEffect = .done d) :
    telemAction s = { s.askedTelem with dev := { s.dev with display := d } } := by
  simp only [telemAction, h]

theorem telemAction_of_hang {d : Display} (h : s.telemEffect = .hang d) :
    telemAction s = { s.askedTelem with dev := { s.dev with display := d } }.wedge := by
  simp only [telemAction, h]

/-- Settles O43: the action's effect says whether the handler returns; entry leaves the effect as it
is. -/
theorem telemTimerDispatchChangesTheDisplayOrWedges :
    Obligations.TelemTimerDispatchChangesTheDisplayOrWedges := by
  intro d s hr hc hm hp
  have enabled : s.irq.enables .telemTimer = true := Dispatcher.enables_iff.2 ⟨hc, hm, hp⟩
  have effect : (s.enterHandler .telemTimer).telemEffect = s.telemEffect := rfl
  refine ⟨fun h => ?returns, fun h => ?hangs⟩
  case returns =>
    exact runHandler_of_return hr enabled (telemAction_of_done (effect.trans h)) hr
  case hangs =>
    exact runHandler_of_hang hr enabled (telemAction_of_hang (effect.trans h)) (by simp)

/-! ### The step that dispatches (R192, R219) -/

/-- Settles O46: the listed move is the step's; it dispatches only where the source is enabled. -/
theorem stepRunsTheDispatchedInstruction : Obligations.StepRunsTheDispatchedInstruction := by
  intro src ms s hr hq
  rw [step_of_listed hr hq]
  refine ⟨fun he => ?enabled, fun he => ?idle⟩
  case enabled => exact if_pos he
  case idle => exact if_neg (by simp [he])

end Sys2Proof.Machine
end

section
/-! Proofs about exceptions and interrupts (60_exceptions.md), 1. Which dispatches and bus moves are
enabled (R217, R219), and that every move of a running state has a next state (R210, R212). -/

namespace Sys2Proof.Machine

variable {s u : State} {src : Source}

/-! ### Dispatches that are not enabled (R219) -/

theorem runHandler_not_enabled (hr : s.irq.run = .running) (he : s.irq.enables src = false)
    (action : State → State) : runHandler src action s = .refused .dispatchNotEnabled :=
  (ifRunning_running hr _).trans (if_neg (by simp [he]))

/-- The I2C source is refused in the same way whether or not an event stands behind it. -/
theorem exec_irqI2c_not_enabled (hr : s.irq.run = .running) (he : s.irq.enables .i2c = false) :
    exec .irqI2c s = .refused .dispatchNotEnabled := by
  cases hv : s.irq.i2cEvent with
  | some e => exact (exec_irqI2c_of_event hv).trans (runHandler_not_enabled hr he _)
  | none =>
    simp only [exec, execIrqI2c, hv]
    exact (ifRunning_running hr _).trans (if_neg (by simp [he]))

/-- Settles O44: each of the three conditions disables the source. -/
theorem dispatchNeedsContextUnmaskedAndPending :
    Obligations.DispatchNeedsContextUnmaskedAndPending := by
  intro src s hr hcause
  have disabled : s.irq.enables src = false := by
    rcases hcause with h | h | h <;> simp [Dispatcher.enables, h]
  cases src with
  | i2c => exact exec_irqI2c_not_enabled hr disabled
  | button k => exact runHandler_not_enabled hr disabled _
  | dispTimer => exact runHandler_not_enabled hr disabled _
  | telemTimer => exact runHandler_not_enabled hr disabled _

/-! ### Bus moves (R217) -/

theorem State.busFree_iff : s.busFree = true ↔ s.ctl.enabled = true ∧ s.ctl.intFlag = false ∧
    s.irq.pendingI2c = false ∧ s.irq.i2cEvent = none := by
  simp [State.busFree, and_assoc]

/-- Settles O48: the four conditions are the free bus's, and the move changes none of them. -/
theorem busPresentsOnlyWhenNothingIsOutstanding :
    Obligations.BusPresentsOnlyWhenNothingIsOutstanding := by
  intro status dat ms s hr hq
  rw [step_of_listed hr hq]
  refine ⟨fun hon hflag hpending hnone => ?presents, fun hcause => ?stalled⟩
  case presents =>
    exact congrArg Host.Outcome.next (if_pos (State.busFree_iff.2 ⟨hon, hflag, hpending, hnone⟩))
  case stalled =>
    refine congrArg Host.Outcome.next (if_neg fun hfree => ?_)
    obtain ⟨hon, hflag, hpending, hnone⟩ := (State.busFree_iff (s := s)).1 hfree
    simp [hon, hflag, hpending, hnone] at hcause

/-! ### Every move has a next state (R210, R212) -/

/-- After its `INSTALL` the startup code finds the context (R246), so its `UNMASK` has a step. -/
theorem startupMove_next (hr : u.irq.run = .running) (h : u.StartupOk) :
    ∃ t, startupMove u = .next t := by
  obtain ⟨-, hctx, -⟩ := h
  unfold startupMove
  cases hp : u.env.startup with
  | peripherals => exact ⟨_, rfl⟩
  | install => exact ⟨_, ifRunning_running hr _⟩
  | unmask =>
    have installed : u.irq.ctxInstalled = true := by simpa [hp] using hctx
    exact ⟨_, (ifRunning_running hr _).trans (if_pos installed)⟩
  | idle => exact ⟨_, rfl⟩

/-- Behind a pending I2C source there is an event (R32), so its dispatch has a step. -/
theorem exec_decodeSource_next (hr : u.irq.run = .running) (he : u.irq.enables src = true)
    (h : u.EventOk) : ∃ t, exec (decodeSource src) u = .next t := by
  cases src with
  | i2c =>
    obtain ⟨-, -, -, pending⟩ := h
    obtain ⟨-, -, hp⟩ := Dispatcher.enables_iff.1 he
    obtain ⟨e, hv⟩ := Option.isSome_iff_exists.1 ((pending hr).symm.trans hp)
    exact ⟨_, (exec_irqI2c_of_event hv).trans (runHandler_enabled hr he _)⟩
  | button k => exact ⟨_, runHandler_enabled hr he _⟩
  | dispTimer => exact ⟨_, runHandler_enabled hr he _⟩
  | telemTimer => exact ⟨_, runHandler_enabled hr he _⟩

/-- Whatever agent moves, enabled or not (log entry 11). -/
theorem runMove_next (m : Move) (hr : u.irq.run = .running) (h : u.Inv) :
    ∃ t, runMove m u = .next t := by
  obtain ⟨-, -, hevent, -, hstartup⟩ := h
  cases m with
  | startup => exact startupMove_next hr hstartup
  | dispatch src =>
    by_cases he : u.irq.enables src = true
    · obtain ⟨t, ht⟩ := exec_decodeSource_next hr he hevent
      exact ⟨t, (if_pos he).trans ht⟩
    · exact ⟨u, if_neg he⟩
  | bus status dat => exact ⟨_, rfl⟩
  | buttonEdge k => exact ⟨_, rfl⟩
  | dispTick => exact ⟨_, rfl⟩
  | telemTick => exact ⟨_, rfl⟩

end Sys2Proof.Machine
end

section
/-! Proofs about exceptions and interrupts, 2. How a move leaves the run status: only a second
`INSTALL` is fatal, and only a call that is never answered wedges (R117, R210, R224). -/

namespace Sys2Proof.Machine

variable {s t u : State}

/-! ### The run status after a move -/

/-- The run status in which the move `m`, made in the running state `u`, leaves the run, with its
cause: a second `INSTALL` for `Fatal`, and for `Wedged` a call that is not answered where `n` free
values are taken, in the telemetry timer's handler or as an event's one call. -/
inductive RunAfter (m : Move) (u t : State) : Prop
  | running : t.irq.run = .running → RunAfter m u t
  | installedTwice : u.env.startup = .install → u.irq.ctxInstalled = true →
      t.irq.run = .fatal → RunAfter m u t
  | telemHung (n : Nat) (d : Display) : m = .dispatch .telemTimer → t.env.draws = n + 1 →
      (u.withDraws n).telemEffect = .hang d → t.irq.run = .wedged → RunAfter m u t
  | eventHung (n : Nat) (c : Call) : m = .dispatch .i2c → t.env.draws = n + 1 →
      t.env.calls = [c] → (u.withDraws n).neverAnswers c → t.irq.run = .wedged → RunAfter m u t

theorem runAfter_install {m : Move} (hr : u.irq.run = .running) (hp : u.env.startup = .install) :
    RunAfter m u (installContext (u.setStartup .unmask)) := by
  unfold installContext
  split_ifs with hc
  · exact .installedTwice hp hc rfl
  · exact .running hr

/-- Entry into the handler leaves the answers and the free values as they are. -/
theorem runAfter_i2c (status dat : Byte) (hr : u.irq.run = .running) :
    RunAfter (.dispatch .i2c) u
      ((i2cAction status dat (u.enterHandler .i2c)).andThen State.leaveHandler) := by
  have ended := engineStep_ended (s := u.enterHandler .i2c) (classOf status) dat hr
  rw [i2cDispatch_eq]
  generalize engineStep (classOf status) dat (u.enterHandler .i2c) = v at ended ⊢
  cases ended with
  | full cs hirq =>
    have running : v.irq.run = .running := by rw [hirq]; exact hr
    rw [if_pos running]
    exact .running running
  | blocked c n _ hirq _ _ _ hcalls hdraws hnever =>
    have wedged : v.irq.run = .wedged := by rw [hirq]
    rw [if_neg (by simp [wedged])]
    exact .eventHung n c rfl hdraws hcalls
      ((State.neverAnswers_congr rfl rfl rfl rfl).1 hnever) wedged

theorem runAfter_telemTimer (hr : u.irq.run = .running) :
    RunAfter (.dispatch .telemTimer) u
      ((telemAction (u.enterHandler .telemTimer)).andThen State.leaveHandler) := by
  cases he : (u.enterHandler .telemTimer).telemEffect with
  | done d =>
    rw [telemAction_of_done he, State.andThen_running (by exact hr)]
    exact .running hr
  | hang d =>
    rw [telemAction_of_hang he, State.andThen_stopped (by simp)]
    exact .telemHung u.env.draws d rfl rfl he rfl

/-- Whatever agent moves. -/
theorem Moved.runAfter {m : Move} (hm : Moved m u t) (hr : u.irq.run = .running) :
    RunAfter m u t := by
  cases hm with
  | install _ hp => exact runAfter_install hr hp
  | i2c status dat hm _ _ => exact hm ▸ runAfter_i2c status dat hr
  | telemTimer hm _ => exact hm ▸ runAfter_telemTimer hr
  | latch src _ _ _ _ => cases src <;> exact .running hr
  | _ => exact .running hr

theorem step_runAfter (h : step s = .next t) : RunAfter s.nextMove s.tookMove t := by
  obtain ⟨hr, hm⟩ := step_moved h
  exact hm.runAfter (by simpa using hr)

/-- Settles O57: every move has a next state, and the startup order of the invariant rules out a
second `INSTALL`. -/
theorem runningStepsNeverStopAndAreNeverFatal :
    Obligations.RunningStepsNeverStopAndAreNeverFatal := by
  intro s h hr
  obtain ⟨t, ht⟩ := runMove_next s.nextMove (by simpa using hr) (inv_tookMove h)
  have hstep : step s = .next t := (ifRunning_running hr _).trans ht
  refine ⟨t, hstep, ?_⟩
  cases step_runAfter hstep with
  | running hrun => simp [hrun]
  | installedTwice hp hc _ =>
    obtain ⟨-, -, -, -, -, hctx, -⟩ := h
    simp only [State.tookMove_startup, State.tookMove_irq] at hp hc
    simp [hp, hc] at hctx
  | telemHung _ _ _ _ _ hrun => simp [hrun]
  | eventHung _ _ _ _ _ _ hrun => simp [hrun]

/-! ### Calls that are never answered (R117, R210) -/

/-- Taking a move touches the schedule and the draw count only. -/
theorem State.tookMove_withDraws (s : State) (n : Nat) :
    s.tookMove.withDraws n =
      { s.withDraws n with
        env := { (s.withDraws n).env with schedule := s.env.schedule.tail } } := by
  unfold State.tookMove
  split <;> rename_i hq <;> simp [State.withDraws, State.tookDraw, hq]

/-- Settles O58: the two ways to `Wedged`, with the answers looked up before the move was taken. -/
theorem onlyUnansweredCallsWedge : Obligations.OnlyUnansweredCallsWedge := by
  intro s t hs hw
  cases step_runAfter hs with
  | running hrun => simp [hrun] at hw
  | installedTwice _ _ hrun => simp [hrun] at hw
  | telemHung n d hm hdraws he _ =>
    rw [State.tookMove_withDraws] at he
    exact ⟨n, hdraws, .inl ⟨hm, d, he⟩⟩
  | eventHung n c hm hdraws hcalls hnever _ =>
    rw [State.tookMove_withDraws] at hnever
    have hnever : (s.withDraws n).neverAnswers c :=
      (State.neverAnswers_congr rfl rfl rfl rfl).1 hnever
    exact ⟨n, hdraws, .inr ⟨hm, [], c, hcalls, State.neverAnswers_blocking hnever, hnever⟩⟩

/-! ### Where every collaborator answers (R224, R262) -/

section
variable {α : Type} {a : α} {l l' : List α} {n : Nat}

/-- The answer taken next is a listed one, so it is not `a`. -/
theorem headD_ne_of_listed (d : α) (h : n + 1 ≤ l.length ∧ a ∉ l.take (n + 1)) :
    l.headD d ≠ a := by
  cases l with
  | nil => simp at h
  | cons b l =>
    rintro rfl
    simp at h

/-- Of `n + 1` listed answers that are not `a`, at least `n` are left when one is taken. -/
theorem listed_of_taken (h : n + 1 ≤ l.length ∧ a ∉ l.take (n + 1)) (ht : l' = l ∨ l' = l.tail) :
    n ≤ l'.length ∧ a ∉ l'.take n := by
  obtain ⟨hlen, hmem⟩ := h
  rcases ht with rfl | rfl
  · exact ⟨by omega, fun ha => hmem (List.take_subset_take_left _ (by omega) ha)⟩
  · cases l with
    | nil => simp at hlen
    | cons b l => exact ⟨by simpa using hlen, fun ha => hmem (List.mem_cons_of_mem b ha)⟩

end

theorem State.CollaboratorsAnswer.of_taken {n : Nat} (h : s.CollaboratorsAnswer (n + 1))
    (ht : Taken s t) : t.CollaboratorsAnswer n := by
  obtain ⟨hadc, hread, hwrite, hlen, htelem⟩ := h
  have telem := fun d => listed_of_taken ⟨hlen, htelem d⟩ ht.telemFx
  exact ⟨listed_of_taken hadc ht.adc, listed_of_taken hread ht.vrmRead,
    listed_of_taken hwrite ht.vrmWrite, (telem default).1, fun d => (telem d).2⟩

theorem State.CollaboratorsAnswer.telemEffect_ne_hang {n : Nat}
    (h : s.CollaboratorsAnswer (n + 1)) (d : Display) : s.telemEffect ≠ .hang d := by
  obtain ⟨-, -, -, hlen, htelem⟩ := h
  exact headD_ne_of_listed _ ⟨hlen, htelem d⟩

theorem State.CollaboratorsAnswer.answers {n : Nat} (h : s.CollaboratorsAnswer (n + 1))
    (c : Call) : ¬ s.neverAnswers c := by
  obtain ⟨hadc, hread, hwrite, -⟩ := h
  cases c with
  | adcSample ch => exact headD_ne_of_listed _ hadc
  | vrmReadU8 reg => exact headD_ne_of_listed _ hread
  | vrmReadRaw => exact headD_ne_of_listed _ hread
  | vrmWriteU8 reg v => exact headD_ne_of_listed _ hwrite
  | _ => exact id

/-- A step to `Wedged` would take an answer that is listed as none (O58). -/
theorem State.CollaboratorsAnswer.after_step {n : Nat} (h : s.CollaboratorsAnswer (n + 1))
    (hs : step s = .next t) : t.irq.run ≠ .wedged ∧ t.CollaboratorsAnswer n := by
  refine ⟨fun hw => ?_, h.of_taken (step_taken hs)⟩
  obtain ⟨k, -, ⟨-, d, he⟩ | ⟨-, _, c, -, -, hnever⟩⟩ := onlyUnansweredCallsWedge s t hs hw
  · exact State.CollaboratorsAnswer.telemEffect_ne_hang (s := s.withDraws k) h d he
  · exact State.CollaboratorsAnswer.answers (s := s.withDraws k) h c hnever

/-- Settles O60, by induction on the length of the run: a step leaves the answers for the rest. -/
theorem answeredStepsDoNotWedge : Obligations.AnsweredStepsDoNotWedge := by
  refine ⟨fun n s t h hs => h.after_step hs, fun n => ?_⟩
  induction n with
  | zero =>
    intro s t _ hw hrun
    exact Host.Outcome.next.inj hrun ▸ hw
  | succ n ih =>
    intro s t h _ hrun
    obtain ⟨u, hs, hrun⟩ := run_succ_eq_next hrun
    obtain ⟨hu, hanswer⟩ := h.after_step hs
    exact ih u t hanswer hu hrun

end Sys2Proof.Machine
end

section
/-! Proofs about reset and startup (70_reset_and_hazards.md): the startup code's steps while no move
is listed (R246), and that they boot the block (R262). -/

namespace Sys2Proof.Machine

variable {s : State}

/-! ### The startup code's steps (R246) -/

/-- While no move is listed and the startup code is not done, the step is its move (log entry 4). -/
theorem step_of_startup (hr : s.irq.run = .running) (hq : s.env.schedule = [])
    (hp : s.env.startup ≠ .idle) : step s = startupMove s.tookDraw := by
  have hmove : s.nextMove = .startup := by
    unfold State.nextMove
    rw [hq]
    cases hu : s.env.startup with
    | idle => exact absurd hu hp
    | peripherals | install | unmask => rfl
  have htook : s.tookMove = s.tookDraw := by simp only [State.tookMove, hq]
  rw [step, ifRunning_running hr, hmove, htook]
  rfl

theorem startupMove_peripherals (hp : s.env.startup = .peripherals) :
    startupMove s = .next (s.initPeripherals.setStartup .install) := by
  simp only [startupMove, hp]

theorem startupMove_install (hp : s.env.startup = .install) :
    startupMove s = exec .install (s.setStartup .unmask) := by
  simp only [startupMove, hp]

theorem startupMove_unmask (hp : s.env.startup = .unmask) :
    startupMove s = exec .unmask (s.setStartup .idle) := by
  simp only [startupMove, hp]

/-- Settles O47: the step is the startup code's move, and that is the operation at its position. -/
theorem startupRunsInTheOrderOfBoot : Obligations.StartupRunsInTheOrderOfBoot := by
  intro s hr hq
  have startup : s.env.startup ≠ .idle → step s = startupMove s.tookDraw := step_of_startup hr hq
  refine ⟨fun hp => ?peripherals, fun hp => ?install, fun hp => ?unmask⟩
  case peripherals => exact (startup (by simp [hp])).trans (startupMove_peripherals hp)
  case install => exact (startup (by simp [hp])).trans (startupMove_install hp)
  case unmask => exact (startup (by simp [hp])).trans (startupMove_unmask hp)

/-! ### The startup as a run (R246, R262) -/

/-- A run of one step more goes on from that step's next state. -/
theorem run_succ_of_next {M : Host.Core} {u v : M.State} (n : Nat) (h : M.step u = .next v) :
    M.run (n + 1) u = M.run n v := by
  simp only [Host.Core.run, h]

/-- The startup code's three steps boot the block from every running state that has no context yet:
`INSTALL` creates the context (R190), which `UNMASK` needs (R191). -/
theorem run_startup_boots (hr : s.irq.run = .running) (hq : s.env.schedule = [])
    (hp : s.env.startup = .peripherals) (hc : s.irq.ctxInstalled = false) :
    ∃ t : State, Host.Core.run core 3 s = .next t ∧ t.EngineQuiet ∧
      t.irq = { s.irq with ctxInstalled := true, irqMask := false } ∧
      t.ctl.ownAddrs = [Config.addrEpower, Config.addrPmic] := by
  have first : step s = .next (s.tookDraw.initPeripherals.setStartup .install) :=
    (startupRunsInTheOrderOfBoot s hr hq).1 hp
  generalize hu : s.tookDraw.initPeripherals.setStartup .install = u at first
  obtain ⟨hru, hqu, hpu, hcu⟩ : u.irq.run = .running ∧ u.env.schedule = [] ∧
      u.env.startup = .install ∧ u.irq.ctxInstalled = false := by simp [← hu, hr, hq, hc]
  obtain ⟨-, install, -⟩ := startupRunsInTheOrderOfBoot u hru hqu
  obtain ⟨created, -⟩ := installCreatesTheContextOnce (u.tookDraw.setStartup .unmask) hru
  obtain ⟨v, hv, hirq, hmode, hrx, htx, -, -, -, hctl, -, henv⟩ := created hcu
  have second : step u = .next v := (install hpu).trans hv
  have hrv : v.irq.run = .running := by simp [hirq, hru]
  obtain ⟨-, -, unmask⟩ := startupRunsInTheOrderOfBoot v hrv (by simp [henv, hqu])
  obtain ⟨unmasked, -⟩ := unmaskNeedsTheContext (v.tookDraw.setStartup .idle) hrv
  have third : step v = .next (v.tookDraw.setStartup .idle).unmaskInterrupts :=
    (unmask (by simp [henv])).trans (unmasked (by simp [hirq]))
  refine ⟨(v.tookDraw.setStartup .idle).unmaskInterrupts, ?run, ⟨hmode, hrx, htx⟩, ?irq, ?ctl⟩
  case run =>
    calc Host.Core.run core 3 s
      _ = Host.Core.run core 2 u := run_succ_of_next 2 first
      _ = Host.Core.run core 1 v := run_succ_of_next 1 second
      _ = .next (v.tookDraw.setStartup .idle).unmaskInterrupts := run_succ_of_next 0 third
  case irq => simp [hirq, ← hu]
  case ctl => simp [hctl, ← hu]

/-- Settles O54: at reset there is no context and nothing pending, so the startup boots the block. -/
theorem threeStepsFromResetBootTheBlock : Obligations.ThreeStepsFromResetBootTheBlock := by
  obtain ⟨t, hrun, hquiet, hirq, haddrs⟩ := run_startup_boots (s := State.reset) rfl rfl rfl rfl
  have booted : t.Booted := by simp [State.Booted, hirq, State.reset]
  have nothingPending : t.NothingPending := by simp [State.NothingPending, hirq, State.reset]
  exact ⟨t, hrun, booted, hquiet, nothingPending, haddrs⟩

end Sys2Proof.Machine
end
